-- ==== Sys2Proof/Word.lean ====
section
/-! DEFINITION. The widths the block's registers and ports have (spec 10_state.md R20, 00_scope.md R5). -/

namespace Sys2Proof

/-- A 32-bit value: `ADDR`, `SEG`, `ACC`, `CHK`, a write address, a written value (R20, R50). -/
abbrev Word := BitVec 32

/-- An 8-bit value: an input character (R70), `BC`, `RT`, a byte of the target memory. -/
abbrev Byte := BitVec 8

/-- The 4-bit output of the nibble decoder (R74). -/
abbrev Nibble := BitVec 4

/-- The 3-bit digit counter `CNT` (R20, R23). -/
abbrev Count := BitVec 3

end Sys2Proof
end

