-- ==== Sys2Proof/Syntax.lean ====
section
/-! DEFINITION. The eight parser states and the fourteen operations of the opcode table (spec 10_state.md R21,
30_encoding.md R78). -/

namespace Sys2Proof

/-- The values of the parser state register `ST` (R21). The numeric codes are in Decode.lean. -/
inductive ParserState where
  | idle       -- waiting for line start
  | byteCount  -- the source's Start(1)
  | address
  | recType1
  | recType2
  | segField
  | segFinal
  | data
deriving DecidableEq, Repr

/-- One constructor per row of spec/opcode_table.json (R78). The operands are the bits of the decode word
`D = {CNT, ST, c}` that the row leaves open: an override row leaves `CNT` and `ST` open, a digit row `CNT` and the
byte `c`, `DATA_WORD` the byte only. `cnt` and `st` are decode context: an operation reads the REGISTERS `CNT` and
`ST`, which step makes equal to them (log entry 9). -/
inductive Instr where
  | ovrColon    (cnt : Count) (st : ParserState)
  | ovrCr       (cnt : Count) (st : ParserState)
  | ovrLf       (cnt : Count) (st : ParserState)
  | ovrGoLower  (cnt : Count) (st : ParserState)
  | ovrGoUpper  (cnt : Count) (st : ParserState)
  | dataWord    (c : Byte)
  | idleSkip    (cnt : Count) (c : Byte)
  | bcDigit     (cnt : Count) (c : Byte)
  | addrDigit   (cnt : Count) (c : Byte)
  | rt1Digit    (cnt : Count) (c : Byte)
  | rt2Dispatch (cnt : Count) (c : Byte)
  | segDigit    (cnt : Count) (c : Byte)
  | segFinal    (cnt : Count) (c : Byte)
  | dataDigit   (cnt : Count) (c : Byte)
deriving DecidableEq, Repr

end Sys2Proof
end

