-- ==== Sys2Proof/Decode.lean ====
section
/-! DEFINITION. The decoder: byte classes, state codes, the 14-bit decode word, decoding by class and state, the same
decode read off the opcode table by priority, and the encoder (spec 30_encoding.md R70 to R72, R78, R79, R82). -/

namespace Sys2Proof

/-! ## Byte classes (R70, R71) -/

/-- The five classes of an input byte (R71). -/
inductive ByteClass where
  | colon | cr | lf | go | digit
deriving DecidableEq, Repr

/-- `':'`, carriage return, line feed, `'g'`, `'G'` (R70). The codes are ASCII: PRESUMED (G1, log entry 17). -/
abbrev chColon : Byte := 0x3A
abbrev chCr : Byte := 0x0D
abbrev chLf : Byte := 0x0A
abbrev chGoLower : Byte := 0x67
abbrev chGoUpper : Byte := 0x47

/-- The class of a byte (R71): the four override classes by their codes, `digit` for the other 251 values. -/
def classify (c : Byte) : ByteClass :=
  if c = chColon then .colon
  else if c = chCr then .cr
  else if c = chLf then .lf
  else if c = chGoLower ∨ c = chGoUpper then .go
  else .digit

/-! ## The decode word (R78) -/

/-- The 3-bit code of a parser state (R21). Codes 2 to 7 are the spec's own numbering (D4). -/
def stCode : ParserState → BitVec 3
  | .idle => 0
  | .byteCount => 1
  | .address => 2
  | .recType1 => 3
  | .recType2 => 4
  | .segField => 5
  | .segFinal => 6
  | .data => 7

/-- The parser state of a code; every code has one (R21). -/
def stOfCode (k : BitVec 3) : ParserState :=
  if k = 0 then .idle
  else if k = 1 then .byteCount
  else if k = 2 then .address
  else if k = 3 then .recType1
  else if k = 4 then .recType2
  else if k = 5 then .segField
  else if k = 6 then .segFinal
  else .data

/-- `D = {CNT[2:0], ST[2:0], c[7:0]}` (R78). -/
def packD (cnt : Count) (st : ParserState) (c : Byte) : BitVec 14 := cnt ++ stCode st ++ c

/-- Bits 13:11 of the decode word. -/
def cntOf (d : BitVec 14) : Count := d.extractLsb' 11 3

/-- The state coded in bits 10:8 of the decode word. -/
def stOf (d : BitVec 14) : ParserState := stOfCode (d.extractLsb' 8 3)

/-- Bits 7:0 of the decode word. -/
def byteOf (d : BitVec 14) : Byte := d.extractLsb' 0 8

/-! ## The decoder -/

/-- The operation a DIGIT byte selects: the state operation of `ST`, `DATA` split by `CNT` (R78, R79). -/
def decodeDigit (cnt : Count) (st : ParserState) (c : Byte) : Instr :=
  match st with
  | .idle => .idleSkip cnt c
  | .byteCount => .bcDigit cnt c
  | .address => .addrDigit cnt c
  | .recType1 => .rt1Digit cnt c
  | .recType2 => .rt2Dispatch cnt c
  | .segField => .segDigit cnt c
  | .segFinal => .segFinal cnt c
  | .data => if cnt = 7 then .dataWord c else .dataDigit cnt c

/-- The operation that (`CNT`, `ST`, `c`) selects, overrides first (R72, R79). -/
def decodeParts (cnt : Count) (st : ParserState) (c : Byte) : Instr :=
  match classify c with
  | .colon => .ovrColon cnt st
  | .cr => .ovrCr cnt st
  | .lf => .ovrLf cnt st
  | .go => if c = chGoLower then .ovrGoLower cnt st else .ovrGoUpper cnt st
  | .digit => decodeDigit cnt st c

/-- The block's decoder: total, every decode word is an operation (R78, R82). -/
def decode (d : BitVec 14) : Instr := decodeParts (cntOf d) (stOf d) (byteOf d)

/-- Why a byte string is no decode word. The spec stores decode words nowhere; this is only the table's numbering of
their 14 bits in two bytes (log entry 10). -/
inductive DecodeReject where
  /-- not the two bytes a decode word takes -/
  | notTwoBytes
  /-- bit 14 or bit 15 set: `D` has bits 13:0 only -/
  | bitsAboveDecodeWord
deriving DecidableEq, Repr

/-- A decode word laid out in two bytes, bits 7:0 (the input byte `c`) first. -/
def decodeBytes (bytes : List Byte) : Except DecodeReject Instr :=
  match bytes with
  | [lo, hi] =>
    if hi &&& 0xC0 = 0 then .ok (decode ((hi ++ lo).setWidth 14)) else .error .bitsAboveDecodeWord
  | _ => .error .notTwoBytes

/-- What the decoder reads from a word numbered as spec/opcode_table.json numbers it; bits above `nbits` are 0. -/
def decodeTableWord (nbits w : Nat) : Option Instr :=
  let v := w % 2 ^ nbits
  if v < 2 ^ 16 then
    match decodeBytes [BitVec.ofNat 8 v, BitVec.ofNat 8 (v / 256)] with
    | .ok i => some i
    | .error _ => none
  else none

/-! ## The encoder (the encodings of R78) -/

/-- The decode word of an instruction, from the `encoding` column of R78. -/
def encode : Instr → BitVec 14
  | .ovrColon cnt st => packD cnt st 0x3A
  | .ovrCr cnt st => packD cnt st 0x0D
  | .ovrLf cnt st => packD cnt st 0x0A
  | .ovrGoLower cnt st => packD cnt st 0x67
  | .ovrGoUpper cnt st => packD cnt st 0x47
  | .dataWord c => (0b111111#6 ++ c : BitVec 14)
  | .idleSkip cnt c => (cnt ++ 0b000#3 ++ c : BitVec 14)
  | .bcDigit cnt c => (cnt ++ 0b001#3 ++ c : BitVec 14)
  | .addrDigit cnt c => (cnt ++ 0b010#3 ++ c : BitVec 14)
  | .rt1Digit cnt c => (cnt ++ 0b011#3 ++ c : BitVec 14)
  | .rt2Dispatch cnt c => (cnt ++ 0b100#3 ++ c : BitVec 14)
  | .segDigit cnt c => (cnt ++ 0b101#3 ++ c : BitVec 14)
  | .segFinal cnt c => (cnt ++ 0b110#3 ++ c : BitVec 14)
  | .dataDigit cnt c => (cnt ++ 0b111#3 ++ c : BitVec 14)

/-! ## The opcode table, row by row (R78) -/

/-- One row of the table of R78: it matches `D` when `D & mask = pattern`. -/
structure OpcodeRow where
  priority : Nat
  mask : BitVec 14
  pattern : BitVec 14
  build : BitVec 14 → Instr

/-- The fourteen rows of R78, in its order, with its masks, matches and priorities. -/
def opcodeRows : List OpcodeRow :=
  [ ⟨0, 0x00FF, 0x003A, fun d => .ovrColon (cntOf d) (stOf d)⟩,
    ⟨0, 0x00FF, 0x000D, fun d => .ovrCr (cntOf d) (stOf d)⟩,
    ⟨0, 0x00FF, 0x000A, fun d => .ovrLf (cntOf d) (stOf d)⟩,
    ⟨0, 0x00FF, 0x0067, fun d => .ovrGoLower (cntOf d) (stOf d)⟩,
    ⟨0, 0x00FF, 0x0047, fun d => .ovrGoUpper (cntOf d) (stOf d)⟩,
    ⟨1, 0x3F00, 0x3F00, fun d => .dataWord (byteOf d)⟩,
    ⟨2, 0x0700, 0x0000, fun d => .idleSkip (cntOf d) (byteOf d)⟩,
    ⟨2, 0x0700, 0x0100, fun d => .bcDigit (cntOf d) (byteOf d)⟩,
    ⟨2, 0x0700, 0x0200, fun d => .addrDigit (cntOf d) (byteOf d)⟩,
    ⟨2, 0x0700, 0x0300, fun d => .rt1Digit (cntOf d) (byteOf d)⟩,
    ⟨2, 0x0700, 0x0400, fun d => .rt2Dispatch (cntOf d) (byteOf d)⟩,
    ⟨2, 0x0700, 0x0500, fun d => .segDigit (cntOf d) (byteOf d)⟩,
    ⟨2, 0x0700, 0x0600, fun d => .segFinal (cntOf d) (byteOf d)⟩,
    ⟨2, 0x0700, 0x0700, fun d => .dataDigit (cntOf d) (byteOf d)⟩ ]

/-- "A row matches when `D & mask = match`" (R78). -/
def rowMatches (d : BitVec 14) (r : OpcodeRow) : Bool := decide (d &&& r.mask = r.pattern)

/-- Of two candidate rows the one with the lower priority number; the earlier where they are equal. -/
def betterRow (best : Option OpcodeRow) (r : OpcodeRow) : Option OpcodeRow :=
  match best with
  | none => some r
  | some b => if r.priority < b.priority then some r else some b

/-- "When several rows match, the row with the lowest priority number wins" (R78). -/
def winningRow (d : BitVec 14) : Option OpcodeRow :=
  (opcodeRows.filter (rowMatches d)).foldl betterRow none

/-- The decode read off the table alone. Decode.lean's `decode` is the reading of R79; that the two agree is a
statement for the provers. -/
def tableDecode (d : BitVec 14) : Option Instr := (winningRow d).map fun r => r.build d

end Sys2Proof
end

