-- ==== Sys2Proof/Config.lean ====
section
/-! DEFINITION. The implementation parameters of spec 00_scope.md R6 (with LOADER_REGION of 70_reset_and_hazards.md
R228), and the free values. -/

namespace Sys2Proof

/-- What a DIGIT byte that is not a hex digit does (R76): `fold` is the spec's value, `ignore` the alternative it
keeps as a named parameter (R79). -/
inductive NonhexPolicy where
  | fold | ignore
deriving DecidableEq, Repr

/-- `MISALIGNED_WRITE` (R55, D14): `fault` is the spec's default, `honoured` a platform that places the four bytes as
R52 places those of any write (log entry 7). -/
inductive MisalignedWrite where
  | fault | honoured
deriving DecidableEq, Repr

/-- The addresses `first` to `last`, both included. -/
structure AddrRange where
  first : Word
  last : Word
deriving DecidableEq, Repr

/-- The parameters that are fixed when the block is built (R6, R33). -/
structure Params where
  /-- `ENTRY_ADDR`, the target of the control transfer (R58, D9) -/
  entryAddr : Word
  /-- `VALID_WRITE`: the write addresses the platform honours (R56, D15), a set given as ranges (log entry 6). DESIGN
  CHOICE, unsafe if not kept: a device register, whose effect R57 leaves to the platform, is no address of this set (93 I15;
  log entry 25) -/
  validWrite : List AddrRange
  /-- `MISALIGNED_WRITE` (R55, D14) -/
  misalignedWrite : MisalignedWrite
  /-- `LOADER_REGION`: where the loader itself lives (R228, D30) -/
  loaderRegion : List AddrRange
  /-- `NONHEX_POLICY` (R76, D2) -/
  nonhexPolicy : NonhexPolicy
deriving DecidableEq, Repr

/-- `ENTRY_ADDR` is OPEN (D9): nothing is known of this value. -/
opaque Config.entryAddr : Word

/-- `VALID_WRITE` is OPEN (D15): nothing is known of this set. -/
opaque Config.validWrite : List AddrRange

/-- `LOADER_REGION` is OPEN (D30): nothing is known of this set. -/
opaque Config.loaderRegion : List AddrRange

/-- FREE VALUE: what the target memory holds after a write the platform does not honour. The spec gives that write no
value (R56, R201). It may depend on which such write it is, on the memory before it, and on the address and value
written; nothing is known of it (log entry 5). -/
opaque Config.faultedMemory : Nat → List Host.Cell → Word → Word → List Host.Cell

/-- The parameters of the block at reset: the open ones free, `MISALIGNED_WRITE` and `NONHEX_POLICY` at the values
R6 takes. -/
def Config.params : Params :=
  { entryAddr := Config.entryAddr
    validWrite := Config.validWrite
    misalignedWrite := .fault
    loaderRegion := Config.loaderRegion
    nonhexPolicy := .fold }

end Sys2Proof
end

