-- ==== Sys2Proof/Machine/State.lean ====
section
/-! DEFINITION. The state of the machine and its value at reset (spec 10_state.md R20, R35; 00_scope.md R5;
20_memory.md R50; 60_exceptions.md R201, R209). -/

namespace Sys2Proof.Machine

/-- An event of the output port (R5). -/
inductive Event where
  /-- one 32-bit store -/
  | writeWord (addr value : Word)
  /-- the running checksum -/
  | checksumReport (value : Word)
  /-- the acknowledgment before the transfer -/
  | ack
  /-- the non-returning control transfer -/
  | branch (target : Word)
deriving DecidableEq, Repr

/-- The target memory: (address, byte) pairs, addresses strictly rising and below 2^32 (`Memory.wf`). An unlisted
address has no value: the spec does not say what memory held before the run (R209; DESIGN CHOICE, log entry 4). -/
abbrev Memory := List Host.Cell

/-- The three platform faults of R201, each a sticky bit. -/
structure PlatformFaults where
  /-- `F_INVALID_WRITE` -/
  invalidWrite : Bool
  /-- `F_MISALIGNED_WRITE` -/
  misalignedWrite : Bool
  /-- `F_LOADER_OVERWRITE` -/
  loaderOverwrite : Bool
deriving DecidableEq, Repr

/-- Why a step stops the machine. -/
inductive Fault where
  /-- Raised by step, never by an instruction: no byte is left at IN and the byte source has failed. The source calls
  that "unspecified/fatal" and I1 treats it as stuck. Safe: the model stops where the hardware does nothing known
  (log entry 8). -/
  | byteSourceFailed
deriving DecidableEq, Repr

/-- Why the model has no meaning for an instruction. -/
inductive Refusal where
  /-- Raised by an arm of exec that has no meaning yet. Safe. No arm of this model raises it. -/
  | notModelled (mnemonic : String)
deriving DecidableEq, Repr

/-- The nine registers of the block (R20), its two ports, the target memory, the recorded platform faults, the
parameters and the free-value counter. -/
structure State where
  /-- `ST`, the parser state (R21) -/
  st : ParserState
  /-- `CNT`, the digit counter (R23) -/
  cnt : Count
  /-- `BC`, the byte-count field (R24) -/
  bc : Byte
  /-- `ADDR`, the address field and running write pointer (R25) -/
  addr : Word
  /-- `RT`, the record-type field (R26) -/
  rt : Byte
  /-- `SEG`, the segment base (R27) -/
  seg : Word
  /-- `ACC`, the data-word accumulator (R28) -/
  acc : Word
  /-- `CHK`, the checksum accumulator (R29) -/
  chk : Word
  /-- `HALT`, set by the control transfer (R30) -/
  halt : Bool
  /-- `IN`: bytes delivered and not yet taken, oldest first (R5; log entry 1) -/
  input : List Byte
  /-- the byte source has failed: no byte will come after those in `input` (I1; log entry 8) -/
  sourceFailed : Bool
  /-- `OUT`: every event emitted so far, in emission order (R5, R209; log entry 3) -/
  out : List Event
  /-- the target memory behind `OUT.WriteWord` (R50; log entry 4) -/
  mem : Memory
  /-- the platform faults recorded so far (R201; log entry 5) -/
  faults : PlatformFaults
  /-- the model's own: how many free memory contents have been used (log entry 5) -/
  freeCount : Nat
  /-- the parameters of R6; no step writes them (R33; log entry 6) -/
  params : Params
deriving DecidableEq, Repr

/-- Reset with the parameters given (R35, R220). -/
def State.resetWith (p : Params) : State :=
  { st := .idle
    cnt := 0
    bc := 0
    addr := 0
    rt := 0
    seg := 0
    acc := 0
    chk := 0
    halt := false
    input := []
    sourceFailed := false
    out := []
    mem := []
    faults := { invalidWrite := false, misalignedWrite := false, loaderOverwrite := false }
    freeCount := 0
    params := p }

/-- The machine right after reset (R35, R220), the open parameters free. -/
def State.reset : State := State.resetWith Config.params

end Sys2Proof.Machine
end

