-- ==== Sys2Proof/Machine/Operands.lean ====
section
/-! DEFINITION. Operand forms: the nibble decoder, the field appends, the word converter, the byte addresses of a
word (spec 30_encoding.md R74 to R77, 41_data_field.md R142, 20_memory.md R52). -/

namespace Sys2Proof.Machine

/-- The nibble decoder `fold` (R74): unsigned 8-bit compare with `'9'`, `c - 7` in 8 bits, the low four bits. -/
def fold (c : Byte) : Nibble := if 0x39 < c then (c - 7).setWidth 4 else c.setWidth 4

/-- The hex digits `0-9`, `A-F` and `a-f` (R76). -/
def isHexDigit (c : Byte) : Bool :=
  (decide (0x30 ≤ c) && decide (c ≤ 0x39)) || (decide (0x41 ≤ c) && decide (c ≤ 0x46)) ||
    (decide (0x61 ≤ c) && decide (c ≤ 0x66))

/-- With `NONHEX_POLICY` = IGNORE a DIGIT byte that is no hex digit changes nothing (R79). -/
def digitIgnored (p : Params) (c : Byte) : Bool :=
  decide (p.nonhexPolicy = .ignore) && !isHexDigit c

/-- Append to `BC` or `RT` (R77): shift, OR, mask to 8 bits. -/
def appendByte (v : Byte) (n : Nibble) : Byte := ((v <<< 4) ||| n.setWidth 8) &&& 0xFF

/-- Append to `ADDR` (R77, R102): shift in 32 bits, mask to 16 bits, then OR the segment. -/
def appendAddr (addr seg : Word) (n : Nibble) : Word :=
  (((addr <<< 4) ||| n.setWidth 32) &&& 0x0000FFFF) ||| seg

/-- Append to `SEG` (R77, R110): shift, OR, mask to 16 bits. -/
def appendSeg (seg : Word) (n : Nibble) : Word := ((seg <<< 4) ||| n.setWidth 32) &&& 0x0000FFFF

/-- Append to `ACC` (R77, R140): shift, OR; bits above 31 are discarded. -/
def appendAcc (acc : Word) (n : Nibble) : Word := (acc <<< 4) ||| n.setWidth 32

/-- The degenerate shift of `SEG_FINAL` (R111): 32 bits, not masked. -/
def finalSeg (seg : Word) : Word := seg <<< 4

/-- Bits `8k + 7` to `8k` of a word. -/
def byteLane (v : Word) (k : Nat) : Byte := v.extractLsb' (8 * k) 8

/-- The word converter (R142): `{ v[7:0], v[15:8], v[23:16], v[31:24] }`. -/
def bswap32 (v : Word) : Word := byteLane v 0 ++ byteLane v 1 ++ byteLane v 2 ++ byteLane v 3

/-- The key in memory of the byte at `addr + k`, in 32-bit arithmetic (R52, R7). -/
def laneAddr (addr : Word) (k : Nat) : Nat := (addr + BitVec.ofNat 32 k).toNat

/-- The four byte addresses of a `WriteWord` at `addr` (R52). -/
def wordLanes (addr : Word) : List Word := [addr, addr + 1, addr + 2, addr + 3]

end Sys2Proof.Machine
end

