-- ==== Sys2Proof/Machine/Flags.lean ====
section
/-! DEFINITION. The flags: `HALT`, the only flag of the block (spec 10_state.md R30, R32), and the platform faults a
`WriteWord` records (60_exceptions.md R201). -/

namespace Sys2Proof.Machine

/-- `HALT <- 1` (R173). -/
def setHalt (s : State) : State := { s with halt := true }

/-- An address lies in a range. -/
def inRange (r : AddrRange) (a : Word) : Bool := decide (r.first ≤ a) && decide (a ≤ r.last)

/-- An address lies in one of the ranges. -/
def inRanges (rs : List AddrRange) (a : Word) : Bool := rs.any fun r => inRange r a

/-- `F_INVALID_WRITE` (R56, R201): `VALID_WRITE(addr)` is false. A write to a device register is to be taken here (R57,
93 I15; log entry 25). -/
def isInvalidWrite (p : Params) (addr : Word) : Bool := !inRanges p.validWrite addr

/-- `F_MISALIGNED_WRITE` (R55, R201): `addr mod 4 ≠ 0`, unless `MISALIGNED_WRITE` says otherwise. -/
def isMisalignedWrite (p : Params) (addr : Word) : Bool :=
  decide (addr.toNat % 4 ≠ 0) && decide (p.misalignedWrite = .fault)

/-- `F_LOADER_OVERWRITE` (R228, R201): one of the four bytes lies in `LOADER_REGION`. -/
def isLoaderOverwrite (p : Params) (addr : Word) : Bool :=
  (wordLanes addr).any fun a => inRanges p.loaderRegion a

/-- The platform faults of one `WriteWord` at `addr` (R201). -/
def writeFaults (p : Params) (addr : Word) : PlatformFaults :=
  { invalidWrite := isInvalidWrite p addr
    misalignedWrite := isMisalignedWrite p addr
    loaderOverwrite := isLoaderOverwrite p addr }

/-- Some platform fault is among them. -/
def anyFault (f : PlatformFaults) : Bool := f.invalidWrite || f.misalignedWrite || f.loaderOverwrite

/-- Recording never clears (R201). -/
def addFaults (f g : PlatformFaults) : PlatformFaults :=
  { invalidWrite := f.invalidWrite || g.invalidWrite
    misalignedWrite := f.misalignedWrite || g.misalignedWrite
    loaderOverwrite := f.loaderOverwrite || g.loaderOverwrite }

end Sys2Proof.Machine
end

