-- ==== Sys2Proof/Machine/Ops.lean ====
section
/-! DEFINITION. The named operations over memory, registers and ports. The block raises no exception and has no trap
entry and no return from one (spec 60_exceptions.md R200, R204, R205), so there is no operation that takes one; the one
transfer of control is `controlTransfer` (42_global_overrides.md R173). -/

namespace Sys2Proof.Machine

/-! ## The target memory -/

/-- The byte at an address, none where the model gives it no value. -/
def Memory.read (m : Memory) (a : Nat) : Option Byte :=
  match m with
  | [] => none
  | (a', b') :: rest => if a = a' then some b' else Memory.read rest a

/-- One byte written, keeping the addresses rising. -/
def Memory.write (m : Memory) (a : Nat) (b : Byte) : Memory :=
  match m with
  | [] => [(a, b)]
  | (a', b') :: rest =>
    if a < a' then (a, b) :: (a', b') :: rest
    else if a = a' then (a, b) :: rest
    else (a', b') :: Memory.write rest a b

/-- The canonical form: addresses strictly rising, all of them 32-bit addresses (R50). An unlisted address has no
value, so no entry can equal one. -/
abbrev Memory.wf (m : Memory) : Prop :=
  m.Pairwise (fun x y => x.1 < y.1) ∧ ∀ x ∈ m, x.1 < 2 ^ 32

/-- Any list of cells in canonical form; addresses outside the 32-bit space are left out, a later cell wins. -/
def Memory.ofCells (cells : List Host.Cell) : Memory :=
  cells.foldl (fun m x => if x.1 < 2 ^ 32 then Memory.write m x.1 x.2 else m) []

/-- The four bytes of a `WriteWord`, little-endian lanes (R52). -/
def storeWord (m : Memory) (addr v : Word) : Memory :=
  Memory.write (Memory.write (Memory.write (Memory.write m (laneAddr addr 0) (byteLane v 0))
    (laneAddr addr 1) (byteLane v 1)) (laneAddr addr 2) (byteLane v 2)) (laneAddr addr 3) (byteLane v 3)

/-! ## Register updates -/

/-- `ST <- st; CNT <- 0` (R23). -/
def goTo (st : ParserState) (s : State) : State := { s with st := st, cnt := 0 }

/-- `CNT <- 0`. -/
def clearCount (s : State) : State := { s with cnt := 0 }

/-- `CNT <- CNT + 1`, in 3 bits. -/
def countDigit (s : State) : State := { s with cnt := s.cnt + 1 }

/-- `if CNT = last then { ST <- st; CNT <- 0 } else { CNT <- CNT + 1 }` (R101, R102, R110). -/
def nextDigit (last : Count) (st : ParserState) (s : State) : State :=
  if s.cnt = last then goTo st s else countDigit s

/-- `BC <- v`. -/
def setBc (v : Byte) (s : State) : State := { s with bc := v }

/-- `ADDR <- v`. -/
def setAddr (v : Word) (s : State) : State := { s with addr := v }

/-- `RT <- v`. -/
def setRt (v : Byte) (s : State) : State := { s with rt := v }

/-- `SEG <- v`. -/
def setSeg (v : Word) (s : State) : State := { s with seg := v }

/-- `ACC <- v`. -/
def setAcc (v : Word) (s : State) : State := { s with acc := v }

/-- `CHK <- v`. -/
def setChk (v : Word) (s : State) : State := { s with chk := v }

/-- What `:`, CR and LF do (R170 to R172): the state given, `CNT <- 0`, `ACC <- 0`. -/
def abandonRecord (st : ParserState) (s : State) : State := setAcc 0 (goTo st s)

/-! ## The output port -/

/-- `Emit(e)`: append to the output port (R7). -/
def emit (e : Event) (s : State) : State := { s with out := s.out ++ [e] }

/-- `MemWrite(addr, 4, v)` (R51): emits `OUT.WriteWord(addr, v)` whatever the platform does with it. The platform faults
of the write are recorded (R201). With none of them the four bytes are placed (R52); with one the write has no modelled
effect (R56), so the memory after it is a FREE VALUE (log entry 5). DESIGN CHOICE, unsafe where `VALID_WRITE` includes a
device register: every address the platform honours holds four plain bytes, for R57 leaves the effect of a write to a device
register to the platform and I15 lets the model take it as part of `VALID_WRITE` (log entry 25). -/
def memWrite (addr v : Word) (s : State) : State :=
  { s with
    out := s.out ++ [.writeWord addr v]
    faults := addFaults s.faults (writeFaults s.params addr)
    mem :=
      if anyFault (writeFaults s.params addr) then
        Memory.ofCells (Config.faultedMemory s.freeCount s.mem addr v)
      else storeWord s.mem addr v
    freeCount := if anyFault (writeFaults s.params addr) then s.freeCount + 1 else s.freeCount }

/-- What `g` and `G` do (R173): acknowledge, branch to `ENTRY_ADDR`, halt. `Branch` replaces a write of a program
counter, which the block does not have (R7, R22). -/
def controlTransfer (s : State) : State :=
  setHalt (emit (.branch s.params.entryAddr) (emit .ack s))

/-! ## The digit operations' shared frame -/

/-- A digit operation: `n = fold(c)` is its operand (R79); a byte that `NONHEX_POLICY` = IGNORE drops changes nothing. -/
def digitStep (c : Byte) (op : Nibble → State → State) (s : State) : Host.Outcome State Fault Refusal :=
  .next (if digitIgnored s.params c then s else op (fold c) s)

/-! ## The input port -/

/-- Take the oldest byte at IN (R5, R8). -/
def takeByte (s : State) : Option (Byte × State) :=
  match s.input with
  | [] => none
  | c :: rest => some (c, { s with input := rest })

/-- The operation that the registers `CNT`, `ST` and a byte select (R78). -/
def decodeAt (s : State) (c : Byte) : Instr := decode (packD s.cnt s.st c)

/-- With no byte at IN the block takes no step and keeps every register (R206); where the source has failed it is stuck
(I1; log entries 2 and 8). -/
def awaitByte (s : State) : Host.Outcome State Fault Refusal :=
  if s.sourceFailed then .fault .byteSourceFailed else .next s

/-- The environment: bytes arrive at IN (R5; log entry 1). -/
def State.deliver (bytes : List Byte) (s : State) : State := { s with input := s.input ++ bytes }

/-- The environment: the byte source fails (I1; log entry 8). -/
def State.failSource (s : State) : State := { s with sourceFailed := true }

/-- The environment puts one byte at the FRONT of IN, for the sequencer position given, on a block that is not halted:
all that it takes for the next step to run the operation of (`CNT`, `ST`, `c`) (log entry 1). -/
def presentByte (cnt : Count) (st : ParserState) (c : Byte) (s : State) : State :=
  { s with cnt := cnt, st := st, halt := false, input := c :: s.input }

end Sys2Proof.Machine
end

