-- ==== Sys2Proof/Machine/DataField.lean ====
section
/-! DEFINITION. The data field operations (spec 41_data_field.md R140, R141). -/

namespace Sys2Proof.Machine

/-- `DATA_DIGIT` (R140). -/
def execDataDigit (c : Byte) (s : State) : Host.Outcome State Fault Refusal :=
  digitStep c (fun n s => countDigit (setAcc (appendAcc s.acc n) s)) s

/-- Write the word `v` at `ADDR`, add both into `CHK`, advance `ADDR` by 4, restart the accumulator (R141, in its
order: write, add, advance). `ST` is not written. -/
def finishWord (v : Word) (s : State) : State :=
  setAcc 0 (clearCount (setAddr (s.addr + 4) (setChk (s.chk + s.addr + v) (memWrite s.addr v s))))

/-- `DATA_WORD` (R141): the eighth digit, then the converted write. -/
def execDataWord (c : Byte) (s : State) : Host.Outcome State Fault Refusal :=
  digitStep c (fun n s => finishWord (bswap32 (appendAcc s.acc n)) s) s

end Sys2Proof.Machine
end

