-- ==== Sys2Proof/Machine/Overrides.lean ====
section
/-! DEFINITION. The global overrides (spec 42_global_overrides.md R170 to R174). -/

namespace Sys2Proof.Machine

/-- `OVR_COLON` (R170): a record starts. -/
def execOvrColon (s : State) : Host.Outcome State Fault Refusal := .next (abandonRecord .byteCount s)

/-- `OVR_CR` (R171): a line ends. -/
def execOvrCr (s : State) : Host.Outcome State Fault Refusal := .next (abandonRecord .idle s)

/-- `OVR_LF` (R172): a line ends. -/
def execOvrLf (s : State) : Host.Outcome State Fault Refusal := .next (abandonRecord .idle s)

/-- `OVR_GO_LOWER` (R173): acknowledge and transfer control. -/
def execOvrGoLower (s : State) : Host.Outcome State Fault Refusal := .next (controlTransfer s)

/-- `OVR_GO_UPPER` (R174): as `g`. -/
def execOvrGoUpper (s : State) : Host.Outcome State Fault Refusal := .next (controlTransfer s)

end Sys2Proof.Machine
end

