-- ==== Sys2Proof/Machine/RecordFields.lean ====
section
/-! DEFINITION. The record header and segment operations (spec 40_record_fields.md R100 to R111). -/

namespace Sys2Proof.Machine

/-- `IDLE_SKIP` (R100): the byte is dropped, under either `NONHEX_POLICY`. -/
def execIdleSkip (s : State) : Host.Outcome State Fault Refusal := .next s

/-- `BC_DIGIT` (R101). -/
def execBcDigit (c : Byte) (s : State) : Host.Outcome State Fault Refusal :=
  digitStep c (fun n s => nextDigit 1 .address (setBc (appendByte s.bc n) s)) s

/-- `ADDR_DIGIT` (R102): the segment is ORed in at every digit. -/
def execAddrDigit (c : Byte) (s : State) : Host.Outcome State Fault Refusal :=
  digitStep c (fun n s => nextDigit 3 .recType1 (setAddr (appendAddr s.addr s.seg n) s)) s

/-- `RT1_DIGIT` (R104). -/
def execRt1Digit (c : Byte) (s : State) : Host.Outcome State Fault Refusal :=
  digitStep c (fun n s => goTo .recType2 (setRt (appendByte s.rt n) s)) s

/-- The branch on the record type (R105): DATA (R106), EOF with its report (R107), SEGMENT (R108), IGNORE (R109). -/
def dispatchType (s : State) : State :=
  if s.rt = 0x00 then goTo .data s
  else if s.rt = 0x01 then goTo .idle (emit (.checksumReport s.chk) s)
  else if s.rt = 0x02 then goTo .segField s
  else goTo .idle s

/-- `RT2_DISPATCH` (R105). -/
def execRt2Dispatch (c : Byte) (s : State) : Host.Outcome State Fault Refusal :=
  digitStep c (fun n s => dispatchType (setRt (appendByte s.rt n) s)) s

/-- `SEG_DIGIT` (R110). -/
def execSegDigit (c : Byte) (s : State) : Host.Outcome State Fault Refusal :=
  digitStep c (fun n s => nextDigit 3 .segFinal (setSeg (appendSeg s.seg n) s)) s

/-- `SEG_FINAL` (R111): the digit's value is not used. -/
def execSegFinal (c : Byte) (s : State) : Host.Outcome State Fault Refusal :=
  digitStep c (fun _ s => goTo .idle (setSeg (finalSeg s.seg) s)) s

end Sys2Proof.Machine
end

