-- ==== Sys2Proof/Machine/Dispatch.lean ====
section
/-! DEFINITION. One arm per operation of the opcode table (spec 30_encoding.md R78). -/

namespace Sys2Proof.Machine

def exec (i : Instr) (s : State) : Host.Outcome State Fault Refusal :=
  match i with
  | .ovrColon _ _ => Sys2Proof.Machine.execOvrColon s
  | .ovrCr _ _ => Sys2Proof.Machine.execOvrCr s
  | .ovrLf _ _ => Sys2Proof.Machine.execOvrLf s
  | .ovrGoLower _ _ => Sys2Proof.Machine.execOvrGoLower s
  | .ovrGoUpper _ _ => Sys2Proof.Machine.execOvrGoUpper s
  | .dataWord c => Sys2Proof.Machine.execDataWord c s
  | .idleSkip _ _ => Sys2Proof.Machine.execIdleSkip s
  | .bcDigit _ c => Sys2Proof.Machine.execBcDigit c s
  | .addrDigit _ c => Sys2Proof.Machine.execAddrDigit c s
  | .rt1Digit _ c => Sys2Proof.Machine.execRt1Digit c s
  | .rt2Dispatch _ c => Sys2Proof.Machine.execRt2Dispatch c s
  | .segDigit _ c => Sys2Proof.Machine.execSegDigit c s
  | .segFinal _ c => Sys2Proof.Machine.execSegFinal c s
  | .dataDigit _ c => Sys2Proof.Machine.execDataDigit c s

end Sys2Proof.Machine
end

