-- ==== Sys2Proof/Machine/Step.lean ====
section
/-! DEFINITION. One step (spec 30_encoding.md R72, R73, R79; 00_scope.md R8), and the placing of one operation where
step fetches it. -/

namespace Sys2Proof.Machine

/-- One step. The `HALT` gate comes first: a halted block takes no step, no byte, and changes nothing (R73). Otherwise
the oldest byte at IN is taken and the operation it selects runs (R79); with no byte the block waits (R206). A step not
taken is the next state unchanged (log entry 2). -/
def step (s : State) : Host.Outcome State Fault Refusal :=
  if s.halt then .next s
  else
    match takeByte s with
    | none => awaitByte s
    | some (c, s') => exec (decodeAt s' c) s'

/-- `s` with the operation of the decode word `w` next: its byte at the front of IN, `CNT` and `ST` as in the word, the
block not halted (log entry 1). -/
def State.withFetchWord (s : State) (nbits w : Nat) : State :=
  let d : BitVec 14 := BitVec.ofNat 14 (w % 2 ^ nbits)
  presentByte (cntOf d) (stOf d) (byteOf d) s

end Sys2Proof.Machine
end

