-- ==== Sys2Proof/Safety.lean ====
section
/-! DEFINITION. What claims are stated in: the observation of a run and when a run is complete (spec 60_exceptions.md
R209), the memory image and the checksum as functions of the events (R60, R143), and the invariants. -/

namespace Sys2Proof.Machine

/-! ## Runs and their observation -/

/-- The event list is the observation (R31, R209). -/
def observation (s : State) : List Event := s.out

/-- A platform fault has been recorded (R201). -/
def PlatformFaulted (s : State) : Prop := anyFault s.faults = true

/-- The run that reached this state is complete: the control transfer has been issued and no platform fault is
recorded (R209). -/
def Complete (s : State) : Prop := s.halt = true ∧ ¬ PlatformFaulted s

/-- `k` steps, stopping at the first fault or refusal. -/
def runSteps (k : Nat) (s : State) : Host.Outcome State Fault Refusal := Host.Core.run Sys2Proof.core k s

/-- `k` steps from reset, with the parameters given, over an input stream (R209). -/
def runFromReset (p : Params) (bytes : List Byte) (k : Nat) : Host.Outcome State Fault Refusal :=
  runSteps k (State.deliver bytes (State.resetWith p))

/-- A byte that is taken as a digit: of class DIGIT (R71), and not one that `NONHEX_POLICY` = IGNORE drops (R79). -/
def TakenAsDigit (p : Params) (c : Byte) : Prop := classify c = .digit ∧ digitIgnored p c = false

/-- The digits of a list of bytes as one number, first digit highest, in 32 bits. -/
def digitsValue (bytes : List Byte) : Word := bytes.foldl (fun v c => (v <<< 4) ||| (fold c).setWidth 32) 0

/-- The address after the four digits of an address field, `F(N16, SEG)` (R103). -/
def fieldAddress (n16 : BitVec 16) (seg : Word) : Word :=
  n16.setWidth 32 ||| ((seg <<< 4) &&& 0x0000FFFF) ||| ((seg <<< 8) &&& 0x0000FFFF) |||
    ((seg <<< 12) &&& 0x0000FFFF) ||| seg

/-! ## What the events say -/

/-- The (address, value) pairs of the `WriteWord` events, in order. -/
def writesOf : List Event → List (Word × Word)
  | [] => []
  | .writeWord a v :: es => (a, v) :: writesOf es
  | .checksumReport _ :: es => writesOf es
  | .ack :: es => writesOf es
  | .branch _ :: es => writesOf es

/-- The sum of every written (address, value) pair, modulo 2^32 (R143). -/
def checksumOf (es : List Event) : Word := ((writesOf es).map fun w => w.1 + w.2).sum

/-- The writes applied in order to a memory with nothing listed (R60, R209). -/
def imageOf (es : List Event) : Memory := (writesOf es).foldl (fun m w => storeWord m w.1 w.2) []

/-- An event is a `Branch`. -/
def isBranch : Event → Bool
  | .branch _ => true
  | .writeWord _ _ => false
  | .checksumReport _ => false
  | .ack => false

/-! ## Invariants -/

/-- The target memory keeps its canonical form. -/
def MemCanonical (s : State) : Prop := Memory.wf s.mem

/-- The ranges `CNT` can hold in each state (R23). -/
def CntInRange (s : State) : Prop :=
  match s.st with
  | .idle | .recType1 | .recType2 | .segFinal => s.cnt = 0
  | .byteCount => s.cnt.toNat ≤ 1
  | .address | .segField => s.cnt.toNat ≤ 3
  | .data => s.cnt.toNat ≤ 7

/-- `ACC` is 0 outside `DATA`, and in `DATA` it holds the `CNT` digits taken so far and nothing above them (R106,
R140). -/
def AccHoldsDigits (s : State) : Prop :=
  if s.st = .data then s.acc.toNat < 16 ^ s.cnt.toNat else s.acc = 0

/-- `SEG` is at most 0x000FFFF0 (R58), and its low 16 bits alone are in use when `SEG_FINAL` comes. -/
def SegBounded (s : State) : Prop :=
  s.seg.toNat ≤ 0x000FFFF0 ∧ (s.st = .segFinal → s.seg.toNat ≤ 0xFFFF)

/-- `CHK` is the sum of every written (address, value) pair (R143). -/
def ChkIsSum (s : State) : Prop := s.chk = checksumOf s.out

/-- With no platform fault recorded, the target memory is the writes applied in order (R60, R209). -/
def MemIsImage (s : State) : Prop := ¬ PlatformFaulted s → s.mem = imageOf s.out

/-- `HALT` is set exactly when the control transfer has been issued, which is then the end of the events: one `Ack` and
one `Branch(ENTRY_ADDR)`, and no `Branch` before (R30, R173, R209). -/
def HaltIsBranch (s : State) : Prop :=
  if s.halt = true then
    ∃ before, s.out = before ++ [.ack, .branch s.params.entryAddr] ∧ before.any isBranch = false
  else s.out.any isBranch = false

end Sys2Proof.Machine
end

