-- ==== Sys2Proof/WellFormed.lean ====
section
/-! DEFINITION. Which instructions stand for a decode word (spec 30_encoding.md R72, R78). -/

namespace Sys2Proof

/-- An override row is well-formed with any `CNT` and `ST`. A digit row takes a DIGIT byte only, because an override
byte never reaches a state operation (R72). `DATA_DIGIT` does not have `CNT` = 7, which is `DATA_WORD` (R78). -/
def Instr.wf : Instr → Bool
  | .ovrColon _ _ => true
  | .ovrCr _ _ => true
  | .ovrLf _ _ => true
  | .ovrGoLower _ _ => true
  | .ovrGoUpper _ _ => true
  | .dataWord c => decide (classify c = .digit)
  | .idleSkip _ c => decide (classify c = .digit)
  | .bcDigit _ c => decide (classify c = .digit)
  | .addrDigit _ c => decide (classify c = .digit)
  | .rt1Digit _ c => decide (classify c = .digit)
  | .rt2Dispatch _ c => decide (classify c = .digit)
  | .segDigit _ c => decide (classify c = .digit)
  | .segFinal _ c => decide (classify c = .digit)
  | .dataDigit cnt c => decide (classify c = .digit) && decide (cnt ≠ 7)

end Sys2Proof
end

