-- ==== Sys2Proof/Certificates/Slice0/Obligations.lean ====
section
/-! DEFINITION. The statements for the provers. Each docstring names the rule of the spec it comes from. -/

open Sys2Proof Sys2Proof.Machine

/-! ## Reset -/

/-- 10_state.md section 6, 70_reset_and_hazards.md section 1: the nine registers at reset, whatever the parameters; no
event has been emitted and no platform fault recorded. The zeros are the spec's table, which it calls its own choice but
for `ADDR`, `SEG` and `CHK` (D8: log entry 20); the empty OUT is log entry 3, the clear faults log entry 5. -/
def Obligations.ResetClearsEveryRegister : Prop :=
  (∀ p : Params,
    (State.resetWith p).st = .idle ∧ (State.resetWith p).cnt = 0 ∧ (State.resetWith p).bc = 0 ∧
    (State.resetWith p).addr = 0 ∧ (State.resetWith p).rt = 0 ∧ (State.resetWith p).seg = 0 ∧
    (State.resetWith p).acc = 0 ∧ (State.resetWith p).chk = 0 ∧ (State.resetWith p).halt = false ∧
    (State.resetWith p).out = [] ∧ ¬ PlatformFaulted (State.resetWith p) ∧ (State.resetWith p).params = p) ∧
  State.reset = State.resetWith Config.params

/-! ## Bytes, nibbles, decode -/

/-- R71, which the spec derives from its table of characters (ASCII codes, G1: log entry 17): the five classes; a byte
has exactly one (classify is a function), and DIGIT is the other 251 values. -/
def Obligations.ByteClassesPartition : Prop :=
  (∀ c : Byte,
    (classify c = .colon ↔ c = 0x3A) ∧ (classify c = .cr ↔ c = 0x0D) ∧ (classify c = .lf ↔ c = 0x0A) ∧
    (classify c = .go ↔ c = 0x67 ∨ c = 0x47) ∧
    (classify c = .digit ↔ c ≠ 0x3A ∧ c ≠ 0x0D ∧ c ≠ 0x0A ∧ c ≠ 0x67 ∧ c ≠ 0x47)) ∧
  ((List.range 256).filter fun k => decide (classify (BitVec.ofNat 8 k) = .digit)).length = 251

/-- R74: the nibble decoder in exact arithmetic on the byte's value; that the value is unsigned is the spec's own choice
(D3: log entry 12). -/
def Obligations.FoldSubtractsSevenAboveNine : Prop :=
  ∀ c : Byte, (fold c).toNat = if 0x39 < c.toNat then (c.toNat - 7) % 16 else c.toNat % 16

/-- R75, which the spec derives from R74 (C5): hex digits of either case give their hex value. -/
def Obligations.FoldReadsHexDigits : Prop :=
  ∀ n : Nat, n < 16 →
    (n ≤ 9 → fold (BitVec.ofNat 8 (0x30 + n)) = BitVec.ofNat 4 n) ∧
    (10 ≤ n → fold (BitVec.ofNat 8 (0x41 + (n - 10))) = BitVec.ofNat 4 n ∧
      fold (BitVec.ofNat 8 (0x61 + (n - 10))) = BitVec.ofNat 4 n)

/-- R78: the decoder is the opcode table read by priority (so some row matches every decode word), and rows of one
priority never overlap. The decode word is the spec's own construction (D4, D5: log entry 22). -/
def Obligations.DecodeIsTheOpcodeTable : Prop :=
  ∀ d : BitVec 14,
    tableDecode d = some (decode d) ∧
    (opcodeRows.filter (rowMatches d)).Pairwise fun r q => r.priority ≠ q.priority

/-- R72: in every state an override byte selects its override, and only a DIGIT byte the operation of the state. -/
def Obligations.OverridesAreCheckedFirst : Prop :=
  ∀ (cnt : Count) (st : ParserState) (c : Byte),
    (classify c = .colon → decode (packD cnt st c) = .ovrColon cnt st) ∧
    (classify c = .cr → decode (packD cnt st c) = .ovrCr cnt st) ∧
    (classify c = .lf → decode (packD cnt st c) = .ovrLf cnt st) ∧
    (classify c = .go → decode (packD cnt st c) = if c = 0x67 then .ovrGoLower cnt st else .ovrGoUpper cnt st) ∧
    (classify c = .digit → decode (packD cnt st c) =
      match st with
      | .idle => .idleSkip cnt c
      | .byteCount => .bcDigit cnt c
      | .address => .addrDigit cnt c
      | .recType1 => .rt1Digit cnt c
      | .recType2 => .rt2Dispatch cnt c
      | .segField => .segDigit cnt c
      | .segFinal => .segFinal cnt c
      | .data => if cnt = 7 then .dataWord c else .dataDigit cnt c)

/-- 30_encoding.md section 4: decoding an encoded well-formed instruction gives it back. That an instruction carries the
open bits of its row is the model's choice (log entry 9). -/
def Obligations.DecodeOfEncode : Prop :=
  ∀ i : Instr, i.wf = true → decode (encode i) = i

/-- 30_encoding.md section 4 (log entry 9, as above): every decode word is the encoding of the well-formed instruction
it decodes to. -/
def Obligations.EncodeOfDecode : Prop :=
  ∀ d : BitVec 14, (decode d).wf = true ∧ encode (decode d) = d

/-- 30_encoding.md section 4, 95_test_vectors.md V1: words written out from the encodings, `nnn sss cccccccc`. -/
def Obligations.WordsDecodeAsTheEncodingsSay : Prop :=
  decode 0b01011100111010 = .ovrColon 2 .data ∧
  decode 0b00000001100111 = .ovrGoLower 0 .idle ∧
  decode 0b11111100110100 = .dataWord 0x34 ∧
  decode 0b11011100110011 = .dataDigit 6 0x33 ∧
  decode 0b01101000110000 = .addrDigit 3 0x30 ∧
  decode 0b00010000110001 = .rt2Dispatch 0 0x31 ∧
  decode 0b00011001000101 = .segFinal 0 0x45

/-! ## The step -/

/-- R79, R8: with the block not halted and a byte at IN, the step takes the byte and runs the operation that the
registers `CNT`, `ST` and the byte select. That IN is a list is the model's choice (log entry 1). -/
def Obligations.StepRunsTheDecodedOperation : Prop :=
  ∀ (s : State) (c : Byte) (rest : List Byte) (i : Instr),
    s.halt = false → s.input = c :: rest → decode (packD s.cnt s.st c) = i →
      i.wf = true ∧ step s = exec i { s with input := rest }

/-- R73 (the spec's own choice D11): a halted block takes no step: no byte, no register, no event, whatever is at IN.
That a step not taken is the same state is the model's choice (log entry 2). -/
def Obligations.HaltedBlockTakesNoStep : Prop :=
  ∀ s : State, s.halt = true → step s = .next s

/-- R30, R63 (the spec's own choice D11; log entry 2): from `HALT` = 1 nothing changes, for any number of steps and
any further bytes at IN. -/
def Obligations.HaltedBlockNeverRunsAgain : Prop :=
  ∀ (s : State) (bytes : List Byte) (k : Nat), s.halt = true →
    runSteps k (State.deliver bytes s) = .next { s with input := s.input ++ bytes }

/-- 60_exceptions.md section 3 (waiting), 93 I1: with no byte the block keeps everything, for any number of steps, and a
byte that then arrives is taken (log entry 2); only a failed source leaves it stuck (I1's `stuck`: log entry 8). -/
def Obligations.NoByteMeansWaiting : Prop :=
  ∀ s : State, s.halt = false → s.input = [] →
    (s.sourceFailed = false → ∀ k : Nat, runSteps k s = .next s) ∧
    (∀ c : Byte, step (State.deliver [c] s) = exec (decode (packD s.cnt s.st c)) s) ∧
    (s.sourceFailed = true → step s = .fault .byteSourceFailed)

/-- R82: no input byte is illegal: from every state the step answers a next state, but for a failed source with no byte
left (93 I1: log entry 8; waiting and halting: log entry 2). -/
def Obligations.NoByteIsIllegal : Prop :=
  ∀ s : State,
    (∃ t, step s = .next t) ∨
    (step s = .fault .byteSourceFailed ∧ s.halt = false ∧ s.input = [] ∧ s.sourceFailed = true)

/-! ## The operations -/

/-- R170, R171, R172: `:`, CR and LF; every other register, memory and the events are as before. The clearing of `CNT`
and `ACC` is the spec's own choice (D5, D6: log entry 22). -/
def Obligations.RecordOverridesAbandonTheRecord : Prop :=
  ∀ (cnt : Count) (st : ParserState) (s : State),
    exec (.ovrColon cnt st) s = .next { s with st := .byteCount, cnt := 0, acc := 0 } ∧
    exec (.ovrCr cnt st) s = .next { s with st := .idle, cnt := 0, acc := 0 } ∧
    exec (.ovrLf cnt st) s = .next { s with st := .idle, cnt := 0, acc := 0 } ∧
    byteOf (encode (.ovrColon cnt st)) = 0x3A ∧ byteOf (encode (.ovrCr cnt st)) = 0x0D ∧
    byteOf (encode (.ovrLf cnt st)) = 0x0A

/-- R173, R174: `g` and `G` in every state: `Ack`, then `Branch(ENTRY_ADDR)`, then `HALT`; nothing else changes. -/
def Obligations.GoAcknowledgesBranchesAndHalts : Prop :=
  ∀ (cnt : Count) (st : ParserState) (s : State),
    exec (.ovrGoLower cnt st) s =
      .next { s with out := s.out ++ [.ack, .branch s.params.entryAddr], halt := true } ∧
    exec (.ovrGoUpper cnt st) s =
      .next { s with out := s.out ++ [.ack, .branch s.params.entryAddr], halt := true } ∧
    byteOf (encode (.ovrGoLower cnt st)) = 0x67 ∧ byteOf (encode (.ovrGoUpper cnt st)) = 0x47

/-- R100: a digit in `IDLE` is ignored, under either policy. -/
def Obligations.IdleIgnoresDigits : Prop :=
  ∀ (cnt : Count) (c : Byte) (s : State), exec (.idleSkip cnt c) s = .next s

/-- R101: one byte-count digit; after two digits `BC` is those digits whatever it held. -/
def Obligations.ByteCountDigit : Prop :=
  (∀ (cnt : Count) (c : Byte) (s : State), digitIgnored s.params c = false →
    exec (.bcDigit cnt c) s = .next { s with
      bc := ((s.bc <<< 4) ||| (fold c).setWidth 8) &&& 0xFF
      st := if s.cnt = 1 then .address else s.st
      cnt := if s.cnt = 1 then 0 else s.cnt + 1 }) ∧
  (∀ (c1 c2 : Byte) (rest : List Byte) (s : State),
    s.halt = false → s.st = .byteCount → s.cnt = 0 → s.input = c1 :: c2 :: rest →
    TakenAsDigit s.params c1 → TakenAsDigit s.params c2 →
    runSteps 2 s = .next { s with bc := fold c1 ++ fold c2, st := .address, cnt := 0, input := rest })

/-- R102: one address digit: shift in, mask to 16 bits, then OR the segment, at every digit; this order is the spec's own
reading (D12: log entry 14). -/
def Obligations.AddressDigit : Prop :=
  ∀ (cnt : Count) (c : Byte) (s : State), digitIgnored s.params c = false →
    exec (.addrDigit cnt c) s = .next { s with
      addr := (((s.addr <<< 4) ||| (fold c).setWidth 32) &&& 0x0000FFFF) ||| s.seg
      st := if s.cnt = 3 then .recType1 else s.st
      cnt := if s.cnt = 3 then 0 else s.cnt + 1 }

/-- R104: the first record-type digit. -/
def Obligations.FirstTypeDigit : Prop :=
  ∀ (cnt : Count) (c : Byte) (s : State), digitIgnored s.params c = false →
    exec (.rt1Digit cnt c) s = .next { s with
      rt := ((s.rt <<< 4) ||| (fold c).setWidth 8) &&& 0xFF
      st := .recType2
      cnt := 0 }

/-- R105, R107, R108 and the state changes of R106, R109: the second record-type digit and the branch on all 8 bits. The
8-bit mask is the spec's own choice (D22: log entry 18), and so is that the report leaves `CHK` (D19: log entry 19). -/
def Obligations.SecondTypeDigitDispatches : Prop :=
  ∀ (cnt : Count) (c : Byte) (s : State) (r : Byte), digitIgnored s.params c = false →
    r = ((s.rt <<< 4) ||| (fold c).setWidth 8) &&& 0xFF →
    (r = 0x00 → exec (.rt2Dispatch cnt c) s = .next { s with rt := r, cnt := 0, st := .data }) ∧
    (r = 0x01 → exec (.rt2Dispatch cnt c) s =
      .next { s with rt := r, cnt := 0, st := .idle, out := s.out ++ [.checksumReport s.chk] }) ∧
    (r = 0x02 → exec (.rt2Dispatch cnt c) s = .next { s with rt := r, cnt := 0, st := .segField }) ∧
    (r ≠ 0x00 → r ≠ 0x01 → r ≠ 0x02 →
      exec (.rt2Dispatch cnt c) s = .next { s with rt := r, cnt := 0, st := .idle })

/-- R110: one segment digit, masked to 16 bits. -/
def Obligations.SegmentDigit : Prop :=
  ∀ (cnt : Count) (c : Byte) (s : State), digitIgnored s.params c = false →
    exec (.segDigit cnt c) s = .next { s with
      seg := ((s.seg <<< 4) ||| (fold c).setWidth 32) &&& 0x0000FFFF
      st := if s.cnt = 3 then .segFinal else s.st
      cnt := if s.cnt = 3 then 0 else s.cnt + 1 }

/-- R111: the fifth digit shifts `SEG`, unmasked (the spec's own choice D13: log entry 14); its value is not used. -/
def Obligations.SegmentFinalShifts : Prop :=
  ∀ (cnt : Count) (c : Byte) (s : State), digitIgnored s.params c = false →
    exec (.segFinal cnt c) s = .next { s with seg := s.seg <<< 4, st := .idle, cnt := 0 }

/-- R140: one of the first seven digits of a data word. -/
def Obligations.DataDigitAccumulates : Prop :=
  ∀ (cnt : Count) (c : Byte) (s : State), digitIgnored s.params c = false →
    exec (.dataDigit cnt c) s =
      .next { s with acc := (s.acc <<< 4) ||| (fold c).setWidth 32, cnt := s.cnt + 1 }

/-- R141: the eighth digit: one `WriteWord` of the converted word at the old `ADDR`, whatever the platform does with it;
`CHK`, `ADDR`, `CNT`, `ACC`; `ST` and every other register, IN and the parameters are as before. Sums modulo 2^32 are
the spec's own choice (D7: log entry 13). -/
def Obligations.DataWordWritesAddsAdvances : Prop :=
  ∀ (c : Byte) (s : State) (v : Word), digitIgnored s.params c = false →
    v = bswap32 ((s.acc <<< 4) ||| (fold c).setWidth 32) →
    ∃ t, exec (.dataWord c) s = .next t ∧
      t.out = s.out ++ [.writeWord s.addr v] ∧
      t.chk = s.chk + s.addr + v ∧ t.addr = s.addr + 4 ∧ t.cnt = 0 ∧ t.acc = 0 ∧
      t.st = s.st ∧ t.bc = s.bc ∧ t.rt = s.rt ∧ t.seg = s.seg ∧ t.halt = s.halt ∧
      t.input = s.input ∧ t.sourceFailed = s.sourceFailed ∧ t.params = s.params

/-- R79 (its last paragraph, D2: log entry 11): under IGNORE a byte that is no hex digit changes nothing and emits
nothing, in every digit operation. -/
def Obligations.IgnorePolicyDropsNonhexBytes : Prop :=
  ∀ (cnt : Count) (c : Byte) (s : State), s.params.nonhexPolicy = .ignore → isHexDigit c = false →
    exec (.idleSkip cnt c) s = .next s ∧ exec (.bcDigit cnt c) s = .next s ∧
    exec (.addrDigit cnt c) s = .next s ∧ exec (.rt1Digit cnt c) s = .next s ∧
    exec (.rt2Dispatch cnt c) s = .next s ∧ exec (.segDigit cnt c) s = .next s ∧
    exec (.segFinal cnt c) s = .next s ∧ exec (.dataDigit cnt c) s = .next s ∧
    exec (.dataWord c) s = .next s

/-- R76, R230 (FOLD is the spec's own choice D2: log entry 11): under FOLD every byte that is no override is taken as
a digit, hex or not; under either policy a hex digit is. -/
def Obligations.FoldPolicyTakesEveryDigitByte : Prop :=
  ∀ (p : Params) (c : Byte), classify c = .digit →
    (p.nonhexPolicy = .fold → TakenAsDigit p c) ∧ (isHexDigit c = true → TakenAsDigit p c)

/-! ## Memory -/

/-- R142: the word converter reverses the bytes, is its own inverse (which the rule derives), and, stored in the lanes of
R52, puts the first transmitted byte at the lowest address. Little-endian lanes are the spec's own choice (D21: log
entry 23); memory in State and lane addresses that wrap are the model's (log entries 4, 16). -/
def Obligations.WordConverterReversesBytes : Prop :=
  ∀ v : Word,
    (∀ k : Nat, k < 4 → byteLane (bswap32 v) k = byteLane v (3 - k)) ∧ bswap32 (bswap32 v) = v ∧
    (∀ (m : Memory) (a : Word) (k : Nat), k < 4 →
      Memory.read (storeWord m a (bswap32 v)) (laneAddr a k) = some (byteLane v (3 - k)))

/-- R52, R54: a write no platform fault meets places its four bytes little-endian at `ADDR + 0` to `ADDR + 3`; every
other address reads as before, and no fault is recorded. Little-endian is the spec's own choice (D21: log entry 23);
holding memory in State, wrapping lane addresses, honouring a misaligned write where the parameter says so, and plain
bytes at every valid address are the model's (log entries 4, 16, 7, 25). -/
def Obligations.DataWordStoresFourBytes : Prop :=
  ∀ (c : Byte) (s t : State) (v : Word), digitIgnored s.params c = false →
    v = bswap32 ((s.acc <<< 4) ||| (fold c).setWidth 32) →
    anyFault (writeFaults s.params s.addr) = false → exec (.dataWord c) s = .next t →
    (∀ k : Nat, k < 4 → Memory.read t.mem (laneAddr s.addr k) = some (v.extractLsb' (8 * k) 8)) ∧
    (∀ a : Nat, (∀ k : Nat, k < 4 → a ≠ laneAddr s.addr k) → Memory.read t.mem a = Memory.read s.mem a) ∧
    t.faults = s.faults

/-- R201, R55, R56, R228 (the spec's own choices D14, D15, D30; log entries 5, 6, 7, 25): the three platform faults a word
write records, each exactly when its rule says; the block goes on. -/
def Obligations.DataWordRecordsPlatformFaults : Prop :=
  ∀ (c : Byte) (s : State), digitIgnored s.params c = false →
    ∃ t, exec (.dataWord c) s = .next t ∧
      (t.faults.invalidWrite = true ↔ s.faults.invalidWrite = true ∨
        ¬ ∃ r ∈ s.params.validWrite, r.first.toNat ≤ s.addr.toNat ∧ s.addr.toNat ≤ r.last.toNat) ∧
      (t.faults.misalignedWrite = true ↔ s.faults.misalignedWrite = true ∨
        (s.addr.toNat % 4 ≠ 0 ∧ s.params.misalignedWrite = .fault)) ∧
      (t.faults.loaderOverwrite = true ↔ s.faults.loaderOverwrite = true ∨
        ∃ r ∈ s.params.loaderRegion, ∃ k : Nat, k < 4 ∧
          r.first.toNat ≤ laneAddr s.addr k ∧ laneAddr s.addr k ≤ r.last.toNat)

/-- R51, R32: every operation but `DATA_WORD` leaves every byte of memory, the recorded faults and the writes emitted as
they were; the parameters, IN and the byte source are never written by an operation. -/
def Obligations.OnlyDataWordStores : Prop :=
  ∀ (i : Instr) (s t : State), exec i s = .next t →
    (t.params = s.params ∧ t.input = s.input ∧ t.sourceFailed = s.sourceFailed) ∧
    ((∀ c : Byte, i ≠ .dataWord c) →
      (∀ a : Nat, Memory.read t.mem a = Memory.read s.mem a) ∧ t.faults = s.faults ∧
      writesOf t.out = writesOf s.out)

/-- R51, R54: a step that emits a word write takes the eighth digit of a data word. -/
def Obligations.WordWriteNeedsTheEighthDigit : Prop :=
  ∀ s t : State, step s = .next t → writesOf t.out ≠ writesOf s.out →
    s.halt = false ∧ s.st = .data ∧ s.cnt = 7 ∧
    ∃ (c : Byte) (rest : List Byte), s.input = c :: rest ∧ TakenAsDigit s.params c

/-! ## Whole-machine rules of one step -/

/-- R32 ("each is written only by the rules that name it"), R222: in which states a step can change each register. -/
def Obligations.RegistersChangeOnlyInTheirStates : Prop :=
  ∀ s t : State, step s = .next t →
    (t.bc ≠ s.bc → s.st = .byteCount) ∧
    (t.addr ≠ s.addr → s.st = .address ∨ (s.st = .data ∧ s.cnt = 7)) ∧
    (t.rt ≠ s.rt → s.st = .recType1 ∨ s.st = .recType2) ∧
    (t.seg ≠ s.seg → s.st = .segField ∨ s.st = .segFinal) ∧
    (t.chk ≠ s.chk → s.st = .data ∧ s.cnt = 7) ∧
    (t.halt ≠ s.halt → t.halt = true ∧ ∃ c rest, s.input = c :: rest ∧ classify c = .go) ∧
    t.params = s.params

/-- R112, which the spec derives from the rules of the operations: the transition relation on `ST` with the events of
each row. -/
def Obligations.TransitionRelation : Prop :=
  ∀ (s : State) (c : Byte) (rest : List Byte), s.halt = false → s.input = c :: rest →
    (classify c = .digit → digitIgnored s.params c = false) →
    ∃ (t : State) (es : List Event), step s = .next t ∧ t.out = s.out ++ es ∧
      (classify c = .colon → t.st = .byteCount ∧ es = []) ∧
      (classify c = .cr ∨ classify c = .lf → t.st = .idle ∧ es = []) ∧
      (classify c = .go → t.halt = true ∧ es = [.ack, .branch s.params.entryAddr]) ∧
      (classify c = .digit →
        (s.st = .idle → t.st = .idle ∧ es = []) ∧
        (s.st = .byteCount → s.cnt.toNat < 1 → t.st = .byteCount ∧ es = []) ∧
        (s.st = .byteCount → s.cnt = 1 → t.st = .address ∧ es = []) ∧
        (s.st = .address → s.cnt.toNat < 3 → t.st = .address ∧ es = []) ∧
        (s.st = .address → s.cnt = 3 → t.st = .recType1 ∧ es = []) ∧
        (s.st = .recType1 → t.st = .recType2 ∧ es = []) ∧
        (s.st = .recType2 → t.rt = 0x00 → t.st = .data ∧ es = []) ∧
        (s.st = .recType2 → t.rt = 0x01 → t.st = .idle ∧ es = [.checksumReport s.chk]) ∧
        (s.st = .recType2 → t.rt = 0x02 → t.st = .segField ∧ es = []) ∧
        (s.st = .recType2 → t.rt ≠ 0x00 ∧ t.rt ≠ 0x01 ∧ t.rt ≠ 0x02 → t.st = .idle ∧ es = []) ∧
        (s.st = .segField → s.cnt.toNat < 3 → t.st = .segField ∧ es = []) ∧
        (s.st = .segField → s.cnt = 3 → t.st = .segFinal ∧ es = []) ∧
        (s.st = .segFinal → t.st = .idle ∧ es = []) ∧
        (s.st = .data → s.cnt.toNat < 7 → t.st = .data ∧ es = []) ∧
        (s.st = .data → s.cnt = 7 → t.st = .data ∧
          es = [.writeWord s.addr (bswap32 ((s.acc <<< 4) ||| (fold c).setWidth 32))]))

/-- R203, which the spec derives from R112: a step adds to the events none, one `WriteWord`, one `ChecksumReport`, or
`Ack` then `Branch`. -/
def Obligations.EventsOfOneStep : Prop :=
  ∀ s t : State, step s = .next t →
    ∃ es : List Event, t.out = s.out ++ es ∧
      (es = [] ∨ (∃ a v, es = [.writeWord a v]) ∨ es = [.checksumReport s.chk] ∨
        es = [.ack, .branch s.params.entryAddr])

/-- R145: only an override leaves `DATA`; after the eighth digit of a word the block stays in `DATA` with `CNT` = 0 and an
empty accumulator, so the next eight digits are the next word. -/
def Obligations.OnlyAnOverrideLeavesData : Prop :=
  (∀ s t : State, step s = .next t → s.st = .data → t.st ≠ .data →
    ∃ (c : Byte) (rest : List Byte), s.input = c :: rest ∧
      (classify c = .colon ∨ classify c = .cr ∨ classify c = .lf)) ∧
  (∀ (s : State) (c : Byte) (rest : List Byte), s.halt = false → s.st = .data → s.cnt = 7 → s.input = c :: rest →
    TakenAsDigit s.params c → ∃ t, step s = .next t ∧ t.st = .data ∧ t.cnt = 0 ∧ t.acc = 0)

/-- R201 (the spec's own choices D14, D15, D30; log entry 5): a recorded platform fault is never cleared, so a run with
one recorded is never complete. -/
def Obligations.PlatformFaultsAreNeverCleared : Prop :=
  (∀ s t : State, step s = .next t →
    (s.faults.invalidWrite = true → t.faults.invalidWrite = true) ∧
    (s.faults.misalignedWrite = true → t.faults.misalignedWrite = true) ∧
    (s.faults.loaderOverwrite = true → t.faults.loaderOverwrite = true)) ∧
  (∀ (k : Nat) (s t : State), PlatformFaulted s → runSteps k s = .next t → ¬ Complete t)

/-! ## Fields over several steps -/

/-- R103, which the spec derives from R102 (D12: log entry 14): the address after the four digits, whatever `ADDR`
held, and the four consequences the rule draws. -/
def Obligations.AddressFieldFormula : Prop :=
  (∀ (s : State) (c1 c2 c3 c4 : Byte) (rest : List Byte),
    s.halt = false → s.st = .address → s.cnt = 0 → s.input = c1 :: c2 :: c3 :: c4 :: rest →
    TakenAsDigit s.params c1 → TakenAsDigit s.params c2 → TakenAsDigit s.params c3 → TakenAsDigit s.params c4 →
    runSteps 4 s = .next { s with
      addr := fieldAddress (fold c1 ++ fold c2 ++ fold c3 ++ fold c4) s.seg
      st := .recType1
      cnt := 0
      input := rest }) ∧
  (∀ (n16 : BitVec 16) (seg : Word), seg.extractLsb' 0 12 = 0 → fieldAddress n16 seg = n16.setWidth 32 ||| seg) ∧
  (∀ (n16 : BitVec 16) (seg : Word), seg.extractLsb' 0 16 = 0 → fieldAddress n16 seg = seg + n16.setWidth 32) ∧
  fieldAddress 0 0x10 = 0x1110 ∧ fieldAddress 0xF000 0x1000 = 0xF000

/-- R110, R111 (D13: log entry 14): a complete segment record: four digits and one more give `SEG` = the digits times
16. -/
def Obligations.SegmentRecordLoadsSegment : Prop :=
  ∀ (s : State) (c1 c2 c3 c4 c5 : Byte) (rest : List Byte),
    s.halt = false → s.st = .segField → s.cnt = 0 → s.input = c1 :: c2 :: c3 :: c4 :: c5 :: rest →
    TakenAsDigit s.params c1 → TakenAsDigit s.params c2 → TakenAsDigit s.params c3 → TakenAsDigit s.params c4 →
    TakenAsDigit s.params c5 →
    runSteps 5 s = .next { s with
      seg := (fold c1 ++ fold c2 ++ fold c3 ++ fold c4).setWidth 32 <<< 4
      st := .idle
      cnt := 0
      input := rest }

/-- R225, which the spec derives: a segment record cut short after 1 to 4 digits leaves the partial, unshifted value
in `SEG`. -/
def Obligations.PartialSegmentStays : Prop :=
  ∀ (s : State) (digits : List Byte) (o : Byte) (rest : List Byte),
    s.halt = false → s.st = .segField → s.cnt = 0 → s.input = digits ++ o :: rest →
    1 ≤ digits.length → digits.length ≤ 4 → (∀ c ∈ digits, TakenAsDigit s.params c) →
    classify o = .colon ∨ classify o = .cr ∨ classify o = .lf →
    ∃ t, runSteps (digits.length + 1) s = .next t ∧
      t.seg = ((s.seg <<< (4 * digits.length)) ||| digitsValue digits) &&& 0xFFFF ∧
      t.st = (if classify o = .colon then .byteCount else .idle) ∧ t.cnt = 0 ∧ t.input = rest ∧
      t.out = s.out ∧ t.chk = s.chk ∧ t.mem = s.mem

/-- R140, R141, R142, R52: eight digits in `DATA` load one word, its bytes in the order they were transmitted, at
`ADDR`, where the platform honours the write. The spec's own choices: little-endian lanes (D21: log entry 23), sums
modulo 2^32 (D7: log entry 13). The model's: memory in State (log entry 4), plain bytes at every valid address (log entry
25), and, for a misaligned write that the parameter honours, where its bytes land (log entries 7, 16). -/
def Obligations.EightDigitsLoadOneWord : Prop :=
  ∀ (s : State) (c1 c2 c3 c4 c5 c6 c7 c8 : Byte) (rest : List Byte),
    s.halt = false → s.st = .data → s.cnt = 0 → s.acc = 0 →
    s.input = c1 :: c2 :: c3 :: c4 :: c5 :: c6 :: c7 :: c8 :: rest →
    (∀ c ∈ [c1, c2, c3, c4, c5, c6, c7, c8], TakenAsDigit s.params c) →
    anyFault (writeFaults s.params s.addr) = false →
    ∃ (t : State) (v : Word), runSteps 8 s = .next t ∧
      v = (fold c7 ++ fold c8 ++ fold c5 ++ fold c6 ++ fold c3 ++ fold c4 ++ fold c1 ++ fold c2 : BitVec 32) ∧
      t.out = s.out ++ [.writeWord s.addr v] ∧ t.chk = s.chk + s.addr + v ∧ t.addr = s.addr + 4 ∧
      t.st = .data ∧ t.cnt = 0 ∧ t.acc = 0 ∧ t.input = rest ∧
      Memory.read t.mem (laneAddr s.addr 0) = some (fold c1 ++ fold c2 : BitVec 8) ∧
      Memory.read t.mem (laneAddr s.addr 1) = some (fold c3 ++ fold c4 : BitVec 8) ∧
      Memory.read t.mem (laneAddr s.addr 2) = some (fold c5 ++ fold c6 : BitVec 8) ∧
      Memory.read t.mem (laneAddr s.addr 3) = some (fold c7 ++ fold c8 : BitVec 8) ∧
      (∀ a : Nat, (∀ k : Nat, k < 4 → a ≠ laneAddr s.addr k) → Memory.read t.mem a = Memory.read s.mem a)

/-- R144, which the spec derives: `L` digits in a data record write `L / 8` words and leave `L % 8` digits; with `N`
payload bytes and the checksum byte, `L = 2N + 2`. -/
def Obligations.DataDigitsWriteOneWordPerEight : Prop :=
  ∀ (digits rest : List Byte) (s : State),
    s.halt = false → s.st = .data → s.cnt = 0 → s.input = digits ++ rest →
    (∀ c ∈ digits, TakenAsDigit s.params c) →
    ∃ t, runSteps digits.length s = .next t ∧ t.input = rest ∧ t.st = .data ∧ t.halt = false ∧
      t.cnt.toNat = digits.length % 8 ∧
      (writesOf t.out).length = (writesOf s.out).length + digits.length / 8 ∧
      t.addr = s.addr + BitVec.ofNat 32 (4 * (digits.length / 8)) ∧
      (∀ N : Nat, digits.length = 2 * N + 2 →
        (writesOf t.out).length = (writesOf s.out).length + (2 * N + 2) / 8)

/-- R175, R173 (D11; log entries 1 and 2): a stream with a `g` or `G` ends the run exactly there, whatever came
before; later bytes are not taken. -/
def Obligations.GoEndsTheRun : Prop :=
  ∀ (s : State) (bytes : List Byte) (g : Byte) (rest : List Byte),
    s.halt = false → s.input = bytes ++ g :: rest → (∀ c ∈ bytes, classify c ≠ .go) → classify g = .go →
    ∃ (t u : State), runSteps bytes.length s = .next t ∧ t.halt = false ∧ t.input = g :: rest ∧
      (∀ k : Nat, runSteps (bytes.length + 1 + k) s = .next u) ∧
      u = { t with out := t.out ++ [.ack, .branch s.params.entryAddr], halt := true, input := rest }

/-! ## Invariants -/

/-- 10_state.md section 6 (R35), 70_reset_and_hazards.md section 1 (R220): the seven invariants hold at reset,
whatever the parameters. The reset values of `ST`, `CNT`, `ACC` and `HALT` are the spec's own choice (D8: log entry
20). That OUT is empty, that memory lists nothing and that no platform fault is recorded are the model's (log entries
3, 4, 5). -/
def Obligations.InvariantsHoldAtReset : Prop :=
  ∀ p : Params, MemCanonical (State.resetWith p) ∧ CntInRange (State.resetWith p) ∧
    AccHoldsDigits (State.resetWith p) ∧ SegBounded (State.resetWith p) ∧ ChkIsSum (State.resetWith p) ∧
    MemIsImage (State.resetWith p) ∧ HaltIsBranch (State.resetWith p)

/-- 20_memory.md section 1; log entry 4 (the memory's form is the model's choice): every step keeps the memory in
canonical form, also one whose write the platform does not honour. -/
def Obligations.StepKeepsMemoryCanonical : Prop :=
  ∀ s t : State, MemCanonical s → step s = .next t → MemCanonical t

/-- R23, which the spec derives (D5: log entry 22): every step keeps `CNT` in the range of its state. -/
def Obligations.StepKeepsCntInRange : Prop :=
  ∀ s t : State, CntInRange s → step s = .next t → CntInRange t

/-- R106, R140, where the spec derives it: every step keeps `ACC` = 0 outside `DATA` and below 16^`CNT` in it. -/
def Obligations.StepKeepsAccBelowItsDigits : Prop :=
  ∀ s t : State, AccHoldsDigits s → step s = .next t → AccHoldsDigits t

/-- R58, R111, where the spec derives it (D13: log entry 14): every step keeps `SEG` at most 0x000FFFF0. -/
def Obligations.StepKeepsSegBounded : Prop :=
  ∀ s t : State, SegBounded s → step s = .next t → SegBounded t

/-- R143, where the spec derives it (D7: log entry 13): every step keeps `CHK` the sum of every written (address,
value) pair. -/
def Obligations.StepKeepsChkTheSumOfWrites : Prop :=
  ∀ s t : State, ChkIsSum s → step s = .next t → ChkIsSum t

/-- R60, R209 (the spec's own choices D16, D26; log entries 4, 5, 15, 25): every step keeps the target memory the
writes applied in order, while no platform fault is recorded. -/
def Obligations.StepKeepsMemoryTheImageOfWrites : Prop :=
  ∀ s t : State, MemIsImage s → step s = .next t → MemIsImage t

/-- R30, R173, R209 (D11, D26; log entry 3): every step keeps `HALT` set exactly when `Ack` and `Branch(ENTRY_ADDR)`
have ended the events. -/
def Obligations.StepKeepsHaltTheBranch : Prop :=
  ∀ s t : State, HaltIsBranch s → step s = .next t → HaltIsBranch t

/-- R209 (the spec's own choice D26; log entries 1, 3, 4, 25): what a complete run from reset is, over any input
stream and any parameters: its events end with `Ack` and the one `Branch`, memory is the writes in order, and `CHK` is
their sum. -/
def Obligations.CompleteRunObservation : Prop :=
  ∀ (p : Params) (bytes : List Byte) (k : Nat) (t : State),
    runFromReset p bytes k = .next t → Complete t →
    (∃ before, observation t = before ++ [.ack, .branch p.entryAddr] ∧ before.any isBranch = false) ∧
    t.mem = imageOf (observation t) ∧ t.chk = checksumOf (observation t)

/-! ## What cannot be observed -/

/-- R24: nothing reads `BC`: two states that differ in `BC` alone run alike, differing in `BC` alone. -/
def Obligations.ByteCountIsNeverRead : Prop :=
  ∀ (k : Nat) (s t : State) (b : Byte), runSteps k s = .next t →
    ∃ b' : Byte, runSteps k { s with bc := b } = .next { t with bc := b' }

/-- 10_state.md section 6 (R35, its last paragraph): in `IDLE` the values of `CNT`, `BC`, `ADDR`, `RT` and `ACC` do not
matter to the events, the memory or `CHK` of any run. -/
def Obligations.FieldValuesInIdleAreUnobservable : Prop :=
  ∀ (k : Nat) (s t : State) (cnt : Count) (bc rt : Byte) (addr acc : Word), s.st = .idle →
    runSteps k s = .next t →
    ∃ t' : State,
      runSteps k { s with cnt := cnt, bc := bc, addr := addr, rt := rt, acc := acc } = .next t' ∧
      t'.out = t.out ∧ t'.mem = t.mem ∧ t'.chk = t.chk ∧ t'.seg = t.seg ∧ t'.halt = t.halt ∧
      t'.faults = t.faults ∧ t'.st = t.st
end

