-- ==== Sys2Proof/Laws/State.lean ====
section
/-! SUPPORT. One lemma per field per update of the state, all true by rfl. -/

namespace Sys2Proof.Machine

/-! ### goTo -/

@[simp] theorem goTo_st (p : ParserState) (s : State) : (goTo p s).st = p := rfl
@[simp] theorem goTo_cnt (p : ParserState) (s : State) : (goTo p s).cnt = 0 := rfl
@[simp] theorem goTo_bc (p : ParserState) (s : State) : (goTo p s).bc = s.bc := rfl
@[simp] theorem goTo_addr (p : ParserState) (s : State) : (goTo p s).addr = s.addr := rfl
@[simp] theorem goTo_rt (p : ParserState) (s : State) : (goTo p s).rt = s.rt := rfl
@[simp] theorem goTo_seg (p : ParserState) (s : State) : (goTo p s).seg = s.seg := rfl
@[simp] theorem goTo_acc (p : ParserState) (s : State) : (goTo p s).acc = s.acc := rfl
@[simp] theorem goTo_chk (p : ParserState) (s : State) : (goTo p s).chk = s.chk := rfl
@[simp] theorem goTo_halt (p : ParserState) (s : State) : (goTo p s).halt = s.halt := rfl
@[simp] theorem goTo_input (p : ParserState) (s : State) : (goTo p s).input = s.input := rfl
@[simp] theorem goTo_sourceFailed (p : ParserState) (s : State) : (goTo p s).sourceFailed = s.sourceFailed := rfl
@[simp] theorem goTo_out (p : ParserState) (s : State) : (goTo p s).out = s.out := rfl
@[simp] theorem goTo_mem (p : ParserState) (s : State) : (goTo p s).mem = s.mem := rfl
@[simp] theorem goTo_faults (p : ParserState) (s : State) : (goTo p s).faults = s.faults := rfl
@[simp] theorem goTo_freeCount (p : ParserState) (s : State) : (goTo p s).freeCount = s.freeCount := rfl
@[simp] theorem goTo_params (p : ParserState) (s : State) : (goTo p s).params = s.params := rfl

/-! ### clearCount -/

@[simp] theorem clearCount_st (s : State) : (clearCount s).st = s.st := rfl
@[simp] theorem clearCount_cnt (s : State) : (clearCount s).cnt = 0 := rfl
@[simp] theorem clearCount_bc (s : State) : (clearCount s).bc = s.bc := rfl
@[simp] theorem clearCount_addr (s : State) : (clearCount s).addr = s.addr := rfl
@[simp] theorem clearCount_rt (s : State) : (clearCount s).rt = s.rt := rfl
@[simp] theorem clearCount_seg (s : State) : (clearCount s).seg = s.seg := rfl
@[simp] theorem clearCount_acc (s : State) : (clearCount s).acc = s.acc := rfl
@[simp] theorem clearCount_chk (s : State) : (clearCount s).chk = s.chk := rfl
@[simp] theorem clearCount_halt (s : State) : (clearCount s).halt = s.halt := rfl
@[simp] theorem clearCount_input (s : State) : (clearCount s).input = s.input := rfl
@[simp] theorem clearCount_sourceFailed (s : State) : (clearCount s).sourceFailed = s.sourceFailed := rfl
@[simp] theorem clearCount_out (s : State) : (clearCount s).out = s.out := rfl
@[simp] theorem clearCount_mem (s : State) : (clearCount s).mem = s.mem := rfl
@[simp] theorem clearCount_faults (s : State) : (clearCount s).faults = s.faults := rfl
@[simp] theorem clearCount_freeCount (s : State) : (clearCount s).freeCount = s.freeCount := rfl
@[simp] theorem clearCount_params (s : State) : (clearCount s).params = s.params := rfl

/-! ### countDigit -/

@[simp] theorem countDigit_st (s : State) : (countDigit s).st = s.st := rfl
@[simp] theorem countDigit_cnt (s : State) : (countDigit s).cnt = s.cnt + 1 := rfl
@[simp] theorem countDigit_bc (s : State) : (countDigit s).bc = s.bc := rfl
@[simp] theorem countDigit_addr (s : State) : (countDigit s).addr = s.addr := rfl
@[simp] theorem countDigit_rt (s : State) : (countDigit s).rt = s.rt := rfl
@[simp] theorem countDigit_seg (s : State) : (countDigit s).seg = s.seg := rfl
@[simp] theorem countDigit_acc (s : State) : (countDigit s).acc = s.acc := rfl
@[simp] theorem countDigit_chk (s : State) : (countDigit s).chk = s.chk := rfl
@[simp] theorem countDigit_halt (s : State) : (countDigit s).halt = s.halt := rfl
@[simp] theorem countDigit_input (s : State) : (countDigit s).input = s.input := rfl
@[simp] theorem countDigit_sourceFailed (s : State) : (countDigit s).sourceFailed = s.sourceFailed := rfl
@[simp] theorem countDigit_out (s : State) : (countDigit s).out = s.out := rfl
@[simp] theorem countDigit_mem (s : State) : (countDigit s).mem = s.mem := rfl
@[simp] theorem countDigit_faults (s : State) : (countDigit s).faults = s.faults := rfl
@[simp] theorem countDigit_freeCount (s : State) : (countDigit s).freeCount = s.freeCount := rfl
@[simp] theorem countDigit_params (s : State) : (countDigit s).params = s.params := rfl

/-! ### setBc -/

@[simp] theorem setBc_st (v : Byte) (s : State) : (setBc v s).st = s.st := rfl
@[simp] theorem setBc_cnt (v : Byte) (s : State) : (setBc v s).cnt = s.cnt := rfl
@[simp] theorem setBc_bc (v : Byte) (s : State) : (setBc v s).bc = v := rfl
@[simp] theorem setBc_addr (v : Byte) (s : State) : (setBc v s).addr = s.addr := rfl
@[simp] theorem setBc_rt (v : Byte) (s : State) : (setBc v s).rt = s.rt := rfl
@[simp] theorem setBc_seg (v : Byte) (s : State) : (setBc v s).seg = s.seg := rfl
@[simp] theorem setBc_acc (v : Byte) (s : State) : (setBc v s).acc = s.acc := rfl
@[simp] theorem setBc_chk (v : Byte) (s : State) : (setBc v s).chk = s.chk := rfl
@[simp] theorem setBc_halt (v : Byte) (s : State) : (setBc v s).halt = s.halt := rfl
@[simp] theorem setBc_input (v : Byte) (s : State) : (setBc v s).input = s.input := rfl
@[simp] theorem setBc_sourceFailed (v : Byte) (s : State) : (setBc v s).sourceFailed = s.sourceFailed := rfl
@[simp] theorem setBc_out (v : Byte) (s : State) : (setBc v s).out = s.out := rfl
@[simp] theorem setBc_mem (v : Byte) (s : State) : (setBc v s).mem = s.mem := rfl
@[simp] theorem setBc_faults (v : Byte) (s : State) : (setBc v s).faults = s.faults := rfl
@[simp] theorem setBc_freeCount (v : Byte) (s : State) : (setBc v s).freeCount = s.freeCount := rfl
@[simp] theorem setBc_params (v : Byte) (s : State) : (setBc v s).params = s.params := rfl

/-! ### setAddr -/

@[simp] theorem setAddr_st (v : Word) (s : State) : (setAddr v s).st = s.st := rfl
@[simp] theorem setAddr_cnt (v : Word) (s : State) : (setAddr v s).cnt = s.cnt := rfl
@[simp] theorem setAddr_bc (v : Word) (s : State) : (setAddr v s).bc = s.bc := rfl
@[simp] theorem setAddr_addr (v : Word) (s : State) : (setAddr v s).addr = v := rfl
@[simp] theorem setAddr_rt (v : Word) (s : State) : (setAddr v s).rt = s.rt := rfl
@[simp] theorem setAddr_seg (v : Word) (s : State) : (setAddr v s).seg = s.seg := rfl
@[simp] theorem setAddr_acc (v : Word) (s : State) : (setAddr v s).acc = s.acc := rfl
@[simp] theorem setAddr_chk (v : Word) (s : State) : (setAddr v s).chk = s.chk := rfl
@[simp] theorem setAddr_halt (v : Word) (s : State) : (setAddr v s).halt = s.halt := rfl
@[simp] theorem setAddr_input (v : Word) (s : State) : (setAddr v s).input = s.input := rfl
@[simp] theorem setAddr_sourceFailed (v : Word) (s : State) : (setAddr v s).sourceFailed = s.sourceFailed := rfl
@[simp] theorem setAddr_out (v : Word) (s : State) : (setAddr v s).out = s.out := rfl
@[simp] theorem setAddr_mem (v : Word) (s : State) : (setAddr v s).mem = s.mem := rfl
@[simp] theorem setAddr_faults (v : Word) (s : State) : (setAddr v s).faults = s.faults := rfl
@[simp] theorem setAddr_freeCount (v : Word) (s : State) : (setAddr v s).freeCount = s.freeCount := rfl
@[simp] theorem setAddr_params (v : Word) (s : State) : (setAddr v s).params = s.params := rfl

/-! ### setRt -/

@[simp] theorem setRt_st (v : Byte) (s : State) : (setRt v s).st = s.st := rfl
@[simp] theorem setRt_cnt (v : Byte) (s : State) : (setRt v s).cnt = s.cnt := rfl
@[simp] theorem setRt_bc (v : Byte) (s : State) : (setRt v s).bc = s.bc := rfl
@[simp] theorem setRt_addr (v : Byte) (s : State) : (setRt v s).addr = s.addr := rfl
@[simp] theorem setRt_rt (v : Byte) (s : State) : (setRt v s).rt = v := rfl
@[simp] theorem setRt_seg (v : Byte) (s : State) : (setRt v s).seg = s.seg := rfl
@[simp] theorem setRt_acc (v : Byte) (s : State) : (setRt v s).acc = s.acc := rfl
@[simp] theorem setRt_chk (v : Byte) (s : State) : (setRt v s).chk = s.chk := rfl
@[simp] theorem setRt_halt (v : Byte) (s : State) : (setRt v s).halt = s.halt := rfl
@[simp] theorem setRt_input (v : Byte) (s : State) : (setRt v s).input = s.input := rfl
@[simp] theorem setRt_sourceFailed (v : Byte) (s : State) : (setRt v s).sourceFailed = s.sourceFailed := rfl
@[simp] theorem setRt_out (v : Byte) (s : State) : (setRt v s).out = s.out := rfl
@[simp] theorem setRt_mem (v : Byte) (s : State) : (setRt v s).mem = s.mem := rfl
@[simp] theorem setRt_faults (v : Byte) (s : State) : (setRt v s).faults = s.faults := rfl
@[simp] theorem setRt_freeCount (v : Byte) (s : State) : (setRt v s).freeCount = s.freeCount := rfl
@[simp] theorem setRt_params (v : Byte) (s : State) : (setRt v s).params = s.params := rfl

/-! ### setSeg -/

@[simp] theorem setSeg_st (v : Word) (s : State) : (setSeg v s).st = s.st := rfl
@[simp] theorem setSeg_cnt (v : Word) (s : State) : (setSeg v s).cnt = s.cnt := rfl
@[simp] theorem setSeg_bc (v : Word) (s : State) : (setSeg v s).bc = s.bc := rfl
@[simp] theorem setSeg_addr (v : Word) (s : State) : (setSeg v s).addr = s.addr := rfl
@[simp] theorem setSeg_rt (v : Word) (s : State) : (setSeg v s).rt = s.rt := rfl
@[simp] theorem setSeg_seg (v : Word) (s : State) : (setSeg v s).seg = v := rfl
@[simp] theorem setSeg_acc (v : Word) (s : State) : (setSeg v s).acc = s.acc := rfl
@[simp] theorem setSeg_chk (v : Word) (s : State) : (setSeg v s).chk = s.chk := rfl
@[simp] theorem setSeg_halt (v : Word) (s : State) : (setSeg v s).halt = s.halt := rfl
@[simp] theorem setSeg_input (v : Word) (s : State) : (setSeg v s).input = s.input := rfl
@[simp] theorem setSeg_sourceFailed (v : Word) (s : State) : (setSeg v s).sourceFailed = s.sourceFailed := rfl
@[simp] theorem setSeg_out (v : Word) (s : State) : (setSeg v s).out = s.out := rfl
@[simp] theorem setSeg_mem (v : Word) (s : State) : (setSeg v s).mem = s.mem := rfl
@[simp] theorem setSeg_faults (v : Word) (s : State) : (setSeg v s).faults = s.faults := rfl
@[simp] theorem setSeg_freeCount (v : Word) (s : State) : (setSeg v s).freeCount = s.freeCount := rfl
@[simp] theorem setSeg_params (v : Word) (s : State) : (setSeg v s).params = s.params := rfl

/-! ### setAcc -/

@[simp] theorem setAcc_st (v : Word) (s : State) : (setAcc v s).st = s.st := rfl
@[simp] theorem setAcc_cnt (v : Word) (s : State) : (setAcc v s).cnt = s.cnt := rfl
@[simp] theorem setAcc_bc (v : Word) (s : State) : (setAcc v s).bc = s.bc := rfl
@[simp] theorem setAcc_addr (v : Word) (s : State) : (setAcc v s).addr = s.addr := rfl
@[simp] theorem setAcc_rt (v : Word) (s : State) : (setAcc v s).rt = s.rt := rfl
@[simp] theorem setAcc_seg (v : Word) (s : State) : (setAcc v s).seg = s.seg := rfl
@[simp] theorem setAcc_acc (v : Word) (s : State) : (setAcc v s).acc = v := rfl
@[simp] theorem setAcc_chk (v : Word) (s : State) : (setAcc v s).chk = s.chk := rfl
@[simp] theorem setAcc_halt (v : Word) (s : State) : (setAcc v s).halt = s.halt := rfl
@[simp] theorem setAcc_input (v : Word) (s : State) : (setAcc v s).input = s.input := rfl
@[simp] theorem setAcc_sourceFailed (v : Word) (s : State) : (setAcc v s).sourceFailed = s.sourceFailed := rfl
@[simp] theorem setAcc_out (v : Word) (s : State) : (setAcc v s).out = s.out := rfl
@[simp] theorem setAcc_mem (v : Word) (s : State) : (setAcc v s).mem = s.mem := rfl
@[simp] theorem setAcc_faults (v : Word) (s : State) : (setAcc v s).faults = s.faults := rfl
@[simp] theorem setAcc_freeCount (v : Word) (s : State) : (setAcc v s).freeCount = s.freeCount := rfl
@[simp] theorem setAcc_params (v : Word) (s : State) : (setAcc v s).params = s.params := rfl

/-! ### setChk -/

@[simp] theorem setChk_st (v : Word) (s : State) : (setChk v s).st = s.st := rfl
@[simp] theorem setChk_cnt (v : Word) (s : State) : (setChk v s).cnt = s.cnt := rfl
@[simp] theorem setChk_bc (v : Word) (s : State) : (setChk v s).bc = s.bc := rfl
@[simp] theorem setChk_addr (v : Word) (s : State) : (setChk v s).addr = s.addr := rfl
@[simp] theorem setChk_rt (v : Word) (s : State) : (setChk v s).rt = s.rt := rfl
@[simp] theorem setChk_seg (v : Word) (s : State) : (setChk v s).seg = s.seg := rfl
@[simp] theorem setChk_acc (v : Word) (s : State) : (setChk v s).acc = s.acc := rfl
@[simp] theorem setChk_chk (v : Word) (s : State) : (setChk v s).chk = v := rfl
@[simp] theorem setChk_halt (v : Word) (s : State) : (setChk v s).halt = s.halt := rfl
@[simp] theorem setChk_input (v : Word) (s : State) : (setChk v s).input = s.input := rfl
@[simp] theorem setChk_sourceFailed (v : Word) (s : State) : (setChk v s).sourceFailed = s.sourceFailed := rfl
@[simp] theorem setChk_out (v : Word) (s : State) : (setChk v s).out = s.out := rfl
@[simp] theorem setChk_mem (v : Word) (s : State) : (setChk v s).mem = s.mem := rfl
@[simp] theorem setChk_faults (v : Word) (s : State) : (setChk v s).faults = s.faults := rfl
@[simp] theorem setChk_freeCount (v : Word) (s : State) : (setChk v s).freeCount = s.freeCount := rfl
@[simp] theorem setChk_params (v : Word) (s : State) : (setChk v s).params = s.params := rfl

/-! ### setHalt -/

@[simp] theorem setHalt_st (s : State) : (setHalt s).st = s.st := rfl
@[simp] theorem setHalt_cnt (s : State) : (setHalt s).cnt = s.cnt := rfl
@[simp] theorem setHalt_bc (s : State) : (setHalt s).bc = s.bc := rfl
@[simp] theorem setHalt_addr (s : State) : (setHalt s).addr = s.addr := rfl
@[simp] theorem setHalt_rt (s : State) : (setHalt s).rt = s.rt := rfl
@[simp] theorem setHalt_seg (s : State) : (setHalt s).seg = s.seg := rfl
@[simp] theorem setHalt_acc (s : State) : (setHalt s).acc = s.acc := rfl
@[simp] theorem setHalt_chk (s : State) : (setHalt s).chk = s.chk := rfl
@[simp] theorem setHalt_halt (s : State) : (setHalt s).halt = true := rfl
@[simp] theorem setHalt_input (s : State) : (setHalt s).input = s.input := rfl
@[simp] theorem setHalt_sourceFailed (s : State) : (setHalt s).sourceFailed = s.sourceFailed := rfl
@[simp] theorem setHalt_out (s : State) : (setHalt s).out = s.out := rfl
@[simp] theorem setHalt_mem (s : State) : (setHalt s).mem = s.mem := rfl
@[simp] theorem setHalt_faults (s : State) : (setHalt s).faults = s.faults := rfl
@[simp] theorem setHalt_freeCount (s : State) : (setHalt s).freeCount = s.freeCount := rfl
@[simp] theorem setHalt_params (s : State) : (setHalt s).params = s.params := rfl

/-! ### emit -/

@[simp] theorem emit_st (e : Event) (s : State) : (emit e s).st = s.st := rfl
@[simp] theorem emit_cnt (e : Event) (s : State) : (emit e s).cnt = s.cnt := rfl
@[simp] theorem emit_bc (e : Event) (s : State) : (emit e s).bc = s.bc := rfl
@[simp] theorem emit_addr (e : Event) (s : State) : (emit e s).addr = s.addr := rfl
@[simp] theorem emit_rt (e : Event) (s : State) : (emit e s).rt = s.rt := rfl
@[simp] theorem emit_seg (e : Event) (s : State) : (emit e s).seg = s.seg := rfl
@[simp] theorem emit_acc (e : Event) (s : State) : (emit e s).acc = s.acc := rfl
@[simp] theorem emit_chk (e : Event) (s : State) : (emit e s).chk = s.chk := rfl
@[simp] theorem emit_halt (e : Event) (s : State) : (emit e s).halt = s.halt := rfl
@[simp] theorem emit_input (e : Event) (s : State) : (emit e s).input = s.input := rfl
@[simp] theorem emit_sourceFailed (e : Event) (s : State) : (emit e s).sourceFailed = s.sourceFailed := rfl
@[simp] theorem emit_out (e : Event) (s : State) : (emit e s).out = s.out ++ [e] := rfl
@[simp] theorem emit_mem (e : Event) (s : State) : (emit e s).mem = s.mem := rfl
@[simp] theorem emit_faults (e : Event) (s : State) : (emit e s).faults = s.faults := rfl
@[simp] theorem emit_freeCount (e : Event) (s : State) : (emit e s).freeCount = s.freeCount := rfl
@[simp] theorem emit_params (e : Event) (s : State) : (emit e s).params = s.params := rfl

/-! ### memWrite -/

@[simp] theorem memWrite_st (a v : Word) (s : State) : (memWrite a v s).st = s.st := rfl
@[simp] theorem memWrite_cnt (a v : Word) (s : State) : (memWrite a v s).cnt = s.cnt := rfl
@[simp] theorem memWrite_bc (a v : Word) (s : State) : (memWrite a v s).bc = s.bc := rfl
@[simp] theorem memWrite_addr (a v : Word) (s : State) : (memWrite a v s).addr = s.addr := rfl
@[simp] theorem memWrite_rt (a v : Word) (s : State) : (memWrite a v s).rt = s.rt := rfl
@[simp] theorem memWrite_seg (a v : Word) (s : State) : (memWrite a v s).seg = s.seg := rfl
@[simp] theorem memWrite_acc (a v : Word) (s : State) : (memWrite a v s).acc = s.acc := rfl
@[simp] theorem memWrite_chk (a v : Word) (s : State) : (memWrite a v s).chk = s.chk := rfl
@[simp] theorem memWrite_halt (a v : Word) (s : State) : (memWrite a v s).halt = s.halt := rfl
@[simp] theorem memWrite_input (a v : Word) (s : State) : (memWrite a v s).input = s.input := rfl
@[simp] theorem memWrite_sourceFailed (a v : Word) (s : State) :
    (memWrite a v s).sourceFailed = s.sourceFailed := rfl
@[simp] theorem memWrite_out (a v : Word) (s : State) : (memWrite a v s).out = s.out ++ [.writeWord a v] := rfl
@[simp] theorem memWrite_mem (a v : Word) (s : State) :
    (memWrite a v s).mem = if anyFault (writeFaults s.params a) then
      Memory.ofCells (Config.faultedMemory s.freeCount s.mem a v) else storeWord s.mem a v := rfl
@[simp] theorem memWrite_faults (a v : Word) (s : State) :
    (memWrite a v s).faults = addFaults s.faults (writeFaults s.params a) := rfl
@[simp] theorem memWrite_freeCount (a v : Word) (s : State) :
    (memWrite a v s).freeCount = if anyFault (writeFaults s.params a) then s.freeCount + 1 else s.freeCount := rfl
@[simp] theorem memWrite_params (a v : Word) (s : State) : (memWrite a v s).params = s.params := rfl

/-! ### abandonRecord -/

@[simp] theorem abandonRecord_st (p : ParserState) (s : State) : (abandonRecord p s).st = p := rfl
@[simp] theorem abandonRecord_cnt (p : ParserState) (s : State) : (abandonRecord p s).cnt = 0 := rfl
@[simp] theorem abandonRecord_bc (p : ParserState) (s : State) : (abandonRecord p s).bc = s.bc := rfl
@[simp] theorem abandonRecord_addr (p : ParserState) (s : State) : (abandonRecord p s).addr = s.addr := rfl
@[simp] theorem abandonRecord_rt (p : ParserState) (s : State) : (abandonRecord p s).rt = s.rt := rfl
@[simp] theorem abandonRecord_seg (p : ParserState) (s : State) : (abandonRecord p s).seg = s.seg := rfl
@[simp] theorem abandonRecord_acc (p : ParserState) (s : State) : (abandonRecord p s).acc = 0 := rfl
@[simp] theorem abandonRecord_chk (p : ParserState) (s : State) : (abandonRecord p s).chk = s.chk := rfl
@[simp] theorem abandonRecord_halt (p : ParserState) (s : State) : (abandonRecord p s).halt = s.halt := rfl
@[simp] theorem abandonRecord_input (p : ParserState) (s : State) : (abandonRecord p s).input = s.input := rfl
@[simp] theorem abandonRecord_sourceFailed (p : ParserState) (s : State) :
    (abandonRecord p s).sourceFailed = s.sourceFailed := rfl
@[simp] theorem abandonRecord_out (p : ParserState) (s : State) : (abandonRecord p s).out = s.out := rfl
@[simp] theorem abandonRecord_mem (p : ParserState) (s : State) : (abandonRecord p s).mem = s.mem := rfl
@[simp] theorem abandonRecord_faults (p : ParserState) (s : State) : (abandonRecord p s).faults = s.faults := rfl
@[simp] theorem abandonRecord_freeCount (p : ParserState) (s : State) :
    (abandonRecord p s).freeCount = s.freeCount := rfl
@[simp] theorem abandonRecord_params (p : ParserState) (s : State) : (abandonRecord p s).params = s.params := rfl

/-! ### controlTransfer -/

@[simp] theorem controlTransfer_st (s : State) : (controlTransfer s).st = s.st := rfl
@[simp] theorem controlTransfer_cnt (s : State) : (controlTransfer s).cnt = s.cnt := rfl
@[simp] theorem controlTransfer_bc (s : State) : (controlTransfer s).bc = s.bc := rfl
@[simp] theorem controlTransfer_addr (s : State) : (controlTransfer s).addr = s.addr := rfl
@[simp] theorem controlTransfer_rt (s : State) : (controlTransfer s).rt = s.rt := rfl
@[simp] theorem controlTransfer_seg (s : State) : (controlTransfer s).seg = s.seg := rfl
@[simp] theorem controlTransfer_acc (s : State) : (controlTransfer s).acc = s.acc := rfl
@[simp] theorem controlTransfer_chk (s : State) : (controlTransfer s).chk = s.chk := rfl
@[simp] theorem controlTransfer_halt (s : State) : (controlTransfer s).halt = true := rfl
@[simp] theorem controlTransfer_input (s : State) : (controlTransfer s).input = s.input := rfl
@[simp] theorem controlTransfer_sourceFailed (s : State) : (controlTransfer s).sourceFailed = s.sourceFailed := rfl
@[simp] theorem controlTransfer_out (s : State) :
    (controlTransfer s).out = s.out ++ [.ack, .branch s.params.entryAddr] := by
  simp [controlTransfer, setHalt, emit]
@[simp] theorem controlTransfer_mem (s : State) : (controlTransfer s).mem = s.mem := rfl
@[simp] theorem controlTransfer_faults (s : State) : (controlTransfer s).faults = s.faults := rfl
@[simp] theorem controlTransfer_freeCount (s : State) : (controlTransfer s).freeCount = s.freeCount := rfl
@[simp] theorem controlTransfer_params (s : State) : (controlTransfer s).params = s.params := rfl

/-! ### The environment's updates -/

@[simp] theorem deliver_input (bytes : List Byte) (s : State) :
    (State.deliver bytes s).input = s.input ++ bytes := rfl
theorem deliver_eq (bytes : List Byte) (s : State) :
    State.deliver bytes s = { s with input := s.input ++ bytes } := rfl
theorem presentByte_eq (cnt : Count) (st : ParserState) (c : Byte) (s : State) :
    presentByte cnt st c s = { s with cnt := cnt, st := st, halt := false, input := c :: s.input } := rfl

end Sys2Proof.Machine
end

