-- ==== Sys2Proof/Laws/Decode.lean ====
section
/-! SUPPORT. The fields of a decode word, and what decodes to what. -/

namespace Sys2Proof

theorem stOfCode_stCode (st : ParserState) : stOfCode (stCode st) = st := by cases st <;> rfl

theorem stCode_stOfCode (k : BitVec 3) : stCode (stOfCode k) = k := by
  revert k
  decide

/-- The three fields of a concatenation of three fields. -/
theorem fields_append (cnt k : BitVec 3) (c : Byte) :
    cntOf (cnt ++ k ++ c) = cnt ∧ (cnt ++ k ++ c : BitVec 14).extractLsb' 8 3 = k ∧ byteOf (cnt ++ k ++ c) = c := by
  refine ⟨?_, ?_, ?_⟩ <;> ext i hi
  · rw [cntOf, BitVec.getElem_extractLsb', BitVec.getLsbD_append, BitVec.getLsbD_append, if_neg (by omega),
      if_neg (by omega), show 11 + i - 8 - 3 = i by omega, BitVec.getLsbD_eq_getElem]
  · rw [BitVec.getElem_extractLsb', BitVec.getLsbD_append, BitVec.getLsbD_append, if_neg (by omega),
      if_pos (by omega), show 8 + i - 8 = i by omega, BitVec.getLsbD_eq_getElem]
  · rw [byteOf, BitVec.getElem_extractLsb', BitVec.getLsbD_append, if_pos (by omega), Nat.zero_add,
      BitVec.getLsbD_eq_getElem]

@[simp] theorem cntOf_packD (cnt : Count) (st : ParserState) (c : Byte) : cntOf (packD cnt st c) = cnt :=
  (fields_append cnt (stCode st) c).1

@[simp] theorem stOf_packD (cnt : Count) (st : ParserState) (c : Byte) : stOf (packD cnt st c) = st := by
  rw [stOf, packD, (fields_append cnt (stCode st) c).2.1, stOfCode_stCode]

@[simp] theorem byteOf_packD (cnt : Count) (st : ParserState) (c : Byte) : byteOf (packD cnt st c) = c :=
  (fields_append cnt (stCode st) c).2.2

/-- The decoder on a packed word is the decoder on its parts. -/
@[simp] theorem decode_packD (cnt : Count) (st : ParserState) (c : Byte) :
    decode (packD cnt st c) = decodeParts cnt st c := by simp [decode]

/-- Every decode word is its three fields packed. -/
theorem packD_fields (d : BitVec 14) : packD (cntOf d) (stOf d) (byteOf d) = d := by
  rw [packD, stOf, stCode_stOfCode]
  apply BitVec.eq_of_getLsbD_eq
  intro i hi
  rw [BitVec.getLsbD_append, BitVec.getLsbD_append]
  simp only [cntOf, byteOf, BitVec.getLsbD_extractLsb']
  split
  · simp [*]
  · split
    · simp [*, show 8 + (i - 8) = i by omega]
    · simp [show 11 + (i - 8 - 3) = i by omega, show i - 8 - 3 < 3 by omega]

/-- What decoding the parts of a decode word can give, by the class of the byte. -/
theorem decodeParts_digit (cnt : Count) (st : ParserState) (c : Byte) (h : classify c = .digit) :
    decodeParts cnt st c = decodeDigit cnt st c := by simp [decodeParts, h]

theorem classify_go (c : Byte) : classify c = .go ↔ c = chGoLower ∨ c = chGoUpper := by
  unfold classify
  split <;> (try split) <;> (try split) <;> (try split) <;> simp_all

end Sys2Proof
end

