-- ==== Sys2Proof/Laws/Memory.lean ====
section
/-! SUPPORT. The laws of the target memory: read after write, other addresses, the canonical form. -/

namespace Sys2Proof.Machine

@[simp] theorem read_nil (a : Nat) : Memory.read [] a = none := rfl

@[simp] theorem read_write_same (m : Memory) (a : Nat) (b : Byte) :
    Memory.read (Memory.write m a b) a = some b := by
  induction m with
  | nil => simp [Memory.write, Memory.read]
  | cons x rest ih =>
    obtain ⟨a', b'⟩ := x
    simp only [Memory.write]
    split
    · simp [Memory.read]
    · split
      · simp [Memory.read]
      · simp [Memory.read, *]

theorem read_write_other (m : Memory) (a x : Nat) (b : Byte) (h : x ≠ a) :
    Memory.read (Memory.write m a b) x = Memory.read m x := by
  induction m with
  | nil => simp [Memory.write, Memory.read, h]
  | cons y rest ih =>
    obtain ⟨a', b'⟩ := y
    simp only [Memory.write]
    split
    · simp [Memory.read, h]
    · split
      · subst_vars; simp [Memory.read, h]
      · simp [Memory.read, ih]

/-- The addresses a write lists are the old ones and the one written. -/
theorem mem_write (m : Memory) (a : Nat) (b : Byte) (x : Host.Cell) (h : x ∈ Memory.write m a b) :
    x = (a, b) ∨ x ∈ m := by
  induction m with
  | nil => exact .inl (by simpa [Memory.write] using h)
  | cons y rest ih =>
    obtain ⟨a', b'⟩ := y
    simp only [Memory.write] at h
    split at h
    · simpa using h
    · split at h
      · rcases List.mem_cons.mp h with h | h
        · exact .inl h
        · exact .inr (List.mem_cons_of_mem _ h)
      · rcases List.mem_cons.mp h with h | h
        · exact .inr (h ▸ List.mem_cons_self)
        · exact (ih h).imp_right (List.mem_cons_of_mem _)

theorem wf_nil : Memory.wf [] := ⟨List.Pairwise.nil, by simp⟩

/-- A write keeps the canonical form. -/
theorem write_wf (m : Memory) (a : Nat) (b : Byte) (ha : a < 2 ^ 32) (h : Memory.wf m) :
    Memory.wf (Memory.write m a b) := by
  refine ⟨?_, fun x hx => ?_⟩
  · obtain ⟨hp, -⟩ := h
    induction m with
    | nil => simp [Memory.write]
    | cons y rest ih =>
      obtain ⟨a', b'⟩ := y
      obtain ⟨h1, h2⟩ := List.pairwise_cons.mp hp
      simp only [Memory.write]
      split
      · rename_i hlt
        refine List.pairwise_cons.mpr ⟨fun z hz => ?_, hp⟩
        rcases List.mem_cons.mp hz with rfl | hz
        · exact hlt
        · exact hlt.trans (h1 z hz)
      · split
        · subst_vars; exact List.pairwise_cons.mpr ⟨h1, h2⟩
        · refine List.pairwise_cons.mpr ⟨fun z hz => ?_, ih h2⟩
          rcases mem_write _ _ _ _ hz with rfl | hz
          · show a' < a
            omega
          · exact h1 z hz
  · rcases mem_write _ _ _ _ hx with rfl | hx
    · exact ha
    · exact h.2 x hx

theorem laneAddr_lt (a : Word) (k : Nat) : laneAddr a k < 2 ^ 32 := (a + BitVec.ofNat 32 k).isLt

/-- The four lanes of a word are four different addresses. -/
theorem laneAddr_inj (a : Word) (j k : Nat) (hj : j < 4) (hk : k < 4) (h : laneAddr a j = laneAddr a k) : j = k := by
  simp only [laneAddr, BitVec.toNat_add, BitVec.toNat_ofNat] at h
  have := a.isLt
  omega

/-- Storing a word keeps the canonical form. -/
theorem storeWord_wf (m : Memory) (a v : Word) (h : Memory.wf m) : Memory.wf (storeWord m a v) :=
  write_wf _ _ _ (laneAddr_lt _ _) <| write_wf _ _ _ (laneAddr_lt _ _) <|
    write_wf _ _ _ (laneAddr_lt _ _) <| write_wf _ _ _ (laneAddr_lt _ _) h

/-- A free memory content is in canonical form too. -/
theorem ofCells_wf (cells : List Host.Cell) : Memory.wf (Memory.ofCells cells) := by
  suffices h : ∀ m : Memory, Memory.wf m →
      Memory.wf (cells.foldl (fun m x => if x.1 < 2 ^ 32 then Memory.write m x.1 x.2 else m) m) from h [] wf_nil
  induction cells with
  | nil => exact fun m h => h
  | cons x rest ih =>
    intro m h
    refine ih _ ?_
    beta_reduce
    split
    · exact write_wf _ _ _ ‹_› h
    · exact h

/-- Lane `k` of a stored word reads as byte `k` of the value. -/
theorem read_storeWord_lane (m : Memory) (a v : Word) (k : Nat) (hk : k < 4) :
    Memory.read (storeWord m a v) (laneAddr a k) = some (byteLane v k) := by
  have ne : ∀ j l : Nat, j < 4 → l < 4 → j ≠ l → laneAddr a j ≠ laneAddr a l :=
    fun j l hj hl hne h => hne (laneAddr_inj a j l hj hl h)
  obtain rfl | rfl | rfl | rfl : k = 0 ∨ k = 1 ∨ k = 2 ∨ k = 3 := by omega
  · simp only [storeWord]
    rw [read_write_other _ _ _ _ (ne 0 3 (by omega) (by omega) (by omega)),
      read_write_other _ _ _ _ (ne 0 2 (by omega) (by omega) (by omega)),
      read_write_other _ _ _ _ (ne 0 1 (by omega) (by omega) (by omega)), read_write_same]
  · simp only [storeWord]
    rw [read_write_other _ _ _ _ (ne 1 3 (by omega) (by omega) (by omega)),
      read_write_other _ _ _ _ (ne 1 2 (by omega) (by omega) (by omega)), read_write_same]
  · simp only [storeWord]
    rw [read_write_other _ _ _ _ (ne 2 3 (by omega) (by omega) (by omega)), read_write_same]
  · simp only [storeWord]
    rw [read_write_same]

/-- Every address outside the four lanes reads as before. -/
theorem read_storeWord_other (m : Memory) (a v : Word) (x : Nat) (h : ∀ k : Nat, k < 4 → x ≠ laneAddr a k) :
    Memory.read (storeWord m a v) x = Memory.read m x := by
  simp only [storeWord]
  rw [read_write_other _ _ _ _ (h 3 (by omega)), read_write_other _ _ _ _ (h 2 (by omega)),
    read_write_other _ _ _ _ (h 1 (by omega)), read_write_other _ _ _ _ (h 0 (by omega))]

/-- A word write keeps the canonical form, honoured or not. -/
theorem memWrite_mem_wf (a v : Word) (s : State) (h : Memory.wf s.mem) : Memory.wf (memWrite a v s).mem := by
  rw [memWrite_mem]
  split
  · exact ofCells_wf _
  · exact storeWord_wf _ _ _ h

end Sys2Proof.Machine
end

