-- ==== Sys2Proof/Laws/PerInstr.lean ====
section
/-! SUPPORT. The family RowMatch: the encoding of an instruction matches its own row of the opcode table (spec
30_encoding.md R78). -/

namespace Sys2Proof.Laws.RowMatch

/-- The mask of an instruction's row, from the table of R78. -/
def mask : Instr → BitVec 14
  | .ovrColon _ _ => 0x00FF
  | .ovrCr _ _ => 0x00FF
  | .ovrLf _ _ => 0x00FF
  | .ovrGoLower _ _ => 0x00FF
  | .ovrGoUpper _ _ => 0x00FF
  | .dataWord _ => 0x3F00
  | .idleSkip _ _ => 0x0700
  | .bcDigit _ _ => 0x0700
  | .addrDigit _ _ => 0x0700
  | .rt1Digit _ _ => 0x0700
  | .rt2Dispatch _ _ => 0x0700
  | .segDigit _ _ => 0x0700
  | .segFinal _ _ => 0x0700
  | .dataDigit _ _ => 0x0700

/-- The match of an instruction's row, from the table of R78. -/
def pattern : Instr → BitVec 14
  | .ovrColon _ _ => 0x003A
  | .ovrCr _ _ => 0x000D
  | .ovrLf _ _ => 0x000A
  | .ovrGoLower _ _ => 0x0067
  | .ovrGoUpper _ _ => 0x0047
  | .dataWord _ => 0x3F00
  | .idleSkip _ _ => 0x0000
  | .bcDigit _ _ => 0x0100
  | .addrDigit _ _ => 0x0200
  | .rt1Digit _ _ => 0x0300
  | .rt2Dispatch _ _ => 0x0400
  | .segDigit _ _ => 0x0500
  | .segFinal _ _ => 0x0600
  | .dataDigit _ _ => 0x0700

/-- The encoding matches the row: `D & mask = match`. -/
def Statement (i : Instr) : Prop := encode i &&& mask i = pattern i

/-- A concatenation whose low byte is the row's. -/
theorem low_byte (k : BitVec 6) (c : Byte) : (k ++ c : BitVec 14) &&& 0x00FF#14 = c.setWidth 14 := by
  apply BitVec.eq_of_getLsbD_eq
  intro i hi
  rw [BitVec.getLsbD_and, BitVec.getLsbD_append, BitVec.getLsbD_setWidth]
  have : (0x00FF#14).getLsbD i = decide (i < 8) := by
    revert hi; revert i; decide
  rw [this]
  by_cases h : i < 8
  · simp [h]; omega
  · simp [h, BitVec.getLsbD_of_ge c i (by omega)]

/-- A concatenation whose bits 10:8 are the row's. -/
theorem middle_bits (cnt k : BitVec 3) (c : Byte) :
    (cnt ++ k ++ c : BitVec 14) &&& 0x0700#14 = k.setWidth 14 <<< 8 := by
  apply BitVec.eq_of_getLsbD_eq
  intro i hi
  rw [BitVec.getLsbD_and, BitVec.getLsbD_append, BitVec.getLsbD_append, BitVec.getLsbD_shiftLeft,
    BitVec.getLsbD_setWidth]
  have : (0x0700#14).getLsbD i = (decide (8 ≤ i) && decide (i < 11)) := by
    revert hi; revert i; decide
  rw [this]
  by_cases h : i < 8
  · simp [h]
  · by_cases h' : i < 11
    · simp [h, h', show i - 8 < 3 by omega, show i < 14 by omega, show i - 8 < 14 by omega]; omega
    · simp [h, h', show ¬ i - 8 < 3 by omega, BitVec.getLsbD_of_ge k (i - 8) (by omega)]

theorem high_bits (k : BitVec 6) (c : Byte) : (k ++ c : BitVec 14) &&& 0x3F00#14 = k.setWidth 14 <<< 8 := by
  apply BitVec.eq_of_getLsbD_eq
  intro i hi
  rw [BitVec.getLsbD_and, BitVec.getLsbD_append, BitVec.getLsbD_shiftLeft, BitVec.getLsbD_setWidth]
  have : (0x3F00#14).getLsbD i = decide (8 ≤ i) := by
    revert hi; revert i; decide
  rw [this]
  by_cases h : i < 8
  · simp [h]
  · simp [h, hi, show 8 ≤ i by omega, show i - 8 < 14 by omega]

theorem ovrColon (cnt : Count) (st : ParserState) : Statement (.ovrColon cnt st) := low_byte _ _
theorem ovrCr (cnt : Count) (st : ParserState) : Statement (.ovrCr cnt st) := low_byte _ _
theorem ovrLf (cnt : Count) (st : ParserState) : Statement (.ovrLf cnt st) := low_byte _ _
theorem ovrGoLower (cnt : Count) (st : ParserState) : Statement (.ovrGoLower cnt st) := low_byte _ _
theorem ovrGoUpper (cnt : Count) (st : ParserState) : Statement (.ovrGoUpper cnt st) := low_byte _ _
theorem dataWord (c : Byte) : Statement (.dataWord c) := high_bits _ _
theorem idleSkip (cnt : Count) (c : Byte) : Statement (.idleSkip cnt c) := middle_bits _ _ _
theorem bcDigit (cnt : Count) (c : Byte) : Statement (.bcDigit cnt c) := middle_bits _ _ _
theorem addrDigit (cnt : Count) (c : Byte) : Statement (.addrDigit cnt c) := middle_bits _ _ _
theorem rt1Digit (cnt : Count) (c : Byte) : Statement (.rt1Digit cnt c) := middle_bits _ _ _
theorem rt2Dispatch (cnt : Count) (c : Byte) : Statement (.rt2Dispatch cnt c) := middle_bits _ _ _
theorem segDigit (cnt : Count) (c : Byte) : Statement (.segDigit cnt c) := middle_bits _ _ _
theorem segFinal (cnt : Count) (c : Byte) : Statement (.segFinal cnt c) := middle_bits _ _ _
theorem dataDigit (cnt : Count) (c : Byte) : Statement (.dataDigit cnt c) := middle_bits _ _ _

end Sys2Proof.Laws.RowMatch
end

