-- ==== Sys2Proof/Laws/Step.lean ====
section
/-! SUPPORT. What the shared operations, one step and a run of steps can do, each said once. -/

namespace Sys2Proof.Machine

/-! ## Shared operations -/

theorem digitStep_taken (c : Byte) (op : Nibble → State → State) (s : State)
    (h : digitIgnored s.params c = false) : digitStep c op s = .next (op (fold c) s) := by simp [digitStep, h]

theorem digitStep_ignored (c : Byte) (op : Nibble → State → State) (s : State)
    (h : digitIgnored s.params c = true) : digitStep c op s = .next s := by simp [digitStep, h]

theorem nextDigit_last (last : Count) (st : ParserState) (s : State) (h : s.cnt = last) :
    nextDigit last st s = goTo st s := by simp [nextDigit, h]

theorem nextDigit_more (last : Count) (st : ParserState) (s : State) (h : s.cnt ≠ last) :
    nextDigit last st s = countDigit s := by simp [nextDigit, h]

/-- Counting a digit ends the field, or it does not. -/
theorem nextDigit_cases (last : Count) (st : ParserState) (s : State) :
    (s.cnt = last ∧ nextDigit last st s = goTo st s) ∨ (s.cnt ≠ last ∧ nextDigit last st s = countDigit s) := by
  by_cases h : s.cnt = last
  · exact .inl ⟨h, nextDigit_last _ _ _ h⟩
  · exact .inr ⟨h, nextDigit_more _ _ _ h⟩

/-- The four branches of the type dispatch (R106 to R109). -/
theorem dispatchType_cases (s : State) :
    (s.rt = 0x00 ∧ dispatchType s = goTo .data s) ∨
    (s.rt = 0x01 ∧ dispatchType s = goTo .idle (emit (.checksumReport s.chk) s)) ∨
    (s.rt = 0x02 ∧ dispatchType s = goTo .segField s) ∨
    ((s.rt ≠ 0x00 ∧ s.rt ≠ 0x01 ∧ s.rt ≠ 0x02) ∧ dispatchType s = goTo .idle s) := by
  unfold dispatchType
  split
  · exact .inl ⟨‹_›, rfl⟩
  · split
    · exact .inr (.inl ⟨‹_›, rfl⟩)
    · split
      · exact .inr (.inr (.inl ⟨‹_›, rfl⟩))
      · exact .inr (.inr (.inr ⟨⟨‹_›, ‹_›, ‹_›⟩, rfl⟩))

theorem addFaults_left (f g : PlatformFaults) (h : anyFault f = true) : anyFault (addFaults f g) = true := by
  simp only [anyFault, addFaults, Bool.or_eq_true] at *
  tauto

/-- Nothing was recorded after a write: nothing before, and nothing by the write. -/
theorem anyFault_addFaults (f g : PlatformFaults) : anyFault (addFaults f g) = (anyFault f || anyFault g) := by
  obtain ⟨a, b, c⟩ := f
  obtain ⟨x, y, z⟩ := g
  revert a b c x y z
  decide

/-! ## Finishing a word, field by field (R141) -/

@[simp] theorem finishWord_st (v : Word) (s : State) : (finishWord v s).st = s.st := rfl
@[simp] theorem finishWord_cnt (v : Word) (s : State) : (finishWord v s).cnt = 0 := rfl
@[simp] theorem finishWord_bc (v : Word) (s : State) : (finishWord v s).bc = s.bc := rfl
@[simp] theorem finishWord_addr (v : Word) (s : State) : (finishWord v s).addr = s.addr + 4 := rfl
@[simp] theorem finishWord_rt (v : Word) (s : State) : (finishWord v s).rt = s.rt := rfl
@[simp] theorem finishWord_seg (v : Word) (s : State) : (finishWord v s).seg = s.seg := rfl
@[simp] theorem finishWord_acc (v : Word) (s : State) : (finishWord v s).acc = 0 := rfl
@[simp] theorem finishWord_chk (v : Word) (s : State) : (finishWord v s).chk = s.chk + s.addr + v := rfl
@[simp] theorem finishWord_halt (v : Word) (s : State) : (finishWord v s).halt = s.halt := rfl
@[simp] theorem finishWord_input (v : Word) (s : State) : (finishWord v s).input = s.input := rfl
@[simp] theorem finishWord_sourceFailed (v : Word) (s : State) : (finishWord v s).sourceFailed = s.sourceFailed := rfl
@[simp] theorem finishWord_out (v : Word) (s : State) : (finishWord v s).out = s.out ++ [.writeWord s.addr v] := rfl
@[simp] theorem finishWord_mem (v : Word) (s : State) : (finishWord v s).mem =
    if anyFault (writeFaults s.params s.addr) then
      Memory.ofCells (Config.faultedMemory s.freeCount s.mem s.addr v) else storeWord s.mem s.addr v := rfl
@[simp] theorem finishWord_faults (v : Word) (s : State) : (finishWord v s).faults =
    addFaults s.faults (writeFaults s.params s.addr) := rfl
@[simp] theorem finishWord_freeCount (v : Word) (s : State) : (finishWord v s).freeCount =
    if anyFault (writeFaults s.params s.addr) then s.freeCount + 1 else s.freeCount := rfl
@[simp] theorem finishWord_params (v : Word) (s : State) : (finishWord v s).params = s.params := rfl

/-! ## The digit operations over their shared frame -/

theorem exec_bcDigit (cnt : Count) (c : Byte) (s : State) : exec (.bcDigit cnt c) s =
    digitStep c (fun n s => nextDigit 1 .address (setBc (appendByte s.bc n) s)) s := rfl
theorem exec_addrDigit (cnt : Count) (c : Byte) (s : State) : exec (.addrDigit cnt c) s =
    digitStep c (fun n s => nextDigit 3 .recType1 (setAddr (appendAddr s.addr s.seg n) s)) s := rfl
theorem exec_rt1Digit (cnt : Count) (c : Byte) (s : State) : exec (.rt1Digit cnt c) s =
    digitStep c (fun n s => goTo .recType2 (setRt (appendByte s.rt n) s)) s := rfl
theorem exec_rt2Dispatch (cnt : Count) (c : Byte) (s : State) : exec (.rt2Dispatch cnt c) s =
    digitStep c (fun n s => dispatchType (setRt (appendByte s.rt n) s)) s := rfl
theorem exec_segDigit (cnt : Count) (c : Byte) (s : State) : exec (.segDigit cnt c) s =
    digitStep c (fun n s => nextDigit 3 .segFinal (setSeg (appendSeg s.seg n) s)) s := rfl
theorem exec_segFinal (cnt : Count) (c : Byte) (s : State) : exec (.segFinal cnt c) s =
    digitStep c (fun _ s => goTo .idle (setSeg (finalSeg s.seg) s)) s := rfl
theorem exec_dataDigit (cnt : Count) (c : Byte) (s : State) : exec (.dataDigit cnt c) s =
    digitStep c (fun n s => countDigit (setAcc (appendAcc s.acc n) s)) s := rfl
theorem exec_dataWord (c : Byte) (s : State) : exec (.dataWord c) s =
    digitStep c (fun n s => finishWord (bswap32 (appendAcc s.acc n)) s) s := rfl

/-! ## One step -/

theorem step_halted (s : State) (h : s.halt = true) : step s = .next s := by simp [step, h]

theorem step_no_byte (s : State) (h : s.halt = false) (hi : s.input = []) : step s = awaitByte s := by
  simp [step, h, takeByte, hi]

theorem step_byte (s : State) (c : Byte) (rest : List Byte) (h : s.halt = false) (hi : s.input = c :: rest) :
    step s = exec (decodeParts s.cnt s.st c) { s with input := rest } := by
  simp [step, h, takeByte, hi, decodeAt]

/-- What a byte that has been taken can do to the state: one case per operation, with the class of the byte and the
sequencer's position that select it. -/
inductive ByteEffect (c : Byte) (s : State) : State → Prop
  | colon (h : classify c = .colon) : ByteEffect c s (abandonRecord .byteCount s)
  | lineEnd (h : classify c = .cr ∨ classify c = .lf) : ByteEffect c s (abandonRecord .idle s)
  | go (h : classify c = .go) : ByteEffect c s (controlTransfer s)
  | ignored (h : classify c = .digit) (hi : digitIgnored s.params c = true) : ByteEffect c s s
  | idle (h : classify c = .digit) (hst : s.st = .idle) : ByteEffect c s s
  | byteCountLast (h : TakenAsDigit s.params c) (hst : s.st = .byteCount) (hc : s.cnt = 1) :
      ByteEffect c s (goTo .address (setBc (appendByte s.bc (fold c)) s))
  | byteCountMore (h : TakenAsDigit s.params c) (hst : s.st = .byteCount) (hc : s.cnt ≠ 1) :
      ByteEffect c s (countDigit (setBc (appendByte s.bc (fold c)) s))
  | addressLast (h : TakenAsDigit s.params c) (hst : s.st = .address) (hc : s.cnt = 3) :
      ByteEffect c s (goTo .recType1 (setAddr (appendAddr s.addr s.seg (fold c)) s))
  | addressMore (h : TakenAsDigit s.params c) (hst : s.st = .address) (hc : s.cnt ≠ 3) :
      ByteEffect c s (countDigit (setAddr (appendAddr s.addr s.seg (fold c)) s))
  | recType1 (h : TakenAsDigit s.params c) (hst : s.st = .recType1) :
      ByteEffect c s (goTo .recType2 (setRt (appendByte s.rt (fold c)) s))
  | typeData (h : TakenAsDigit s.params c) (hst : s.st = .recType2) (hr : appendByte s.rt (fold c) = 0x00) :
      ByteEffect c s (goTo .data (setRt (appendByte s.rt (fold c)) s))
  | typeEof (h : TakenAsDigit s.params c) (hst : s.st = .recType2) (hr : appendByte s.rt (fold c) = 0x01) :
      ByteEffect c s (goTo .idle (emit (.checksumReport s.chk) (setRt (appendByte s.rt (fold c)) s)))
  | typeSegment (h : TakenAsDigit s.params c) (hst : s.st = .recType2) (hr : appendByte s.rt (fold c) = 0x02) :
      ByteEffect c s (goTo .segField (setRt (appendByte s.rt (fold c)) s))
  | typeOther (h : TakenAsDigit s.params c) (hst : s.st = .recType2)
      (hr : appendByte s.rt (fold c) ≠ 0x00 ∧ appendByte s.rt (fold c) ≠ 0x01 ∧ appendByte s.rt (fold c) ≠ 0x02) :
      ByteEffect c s (goTo .idle (setRt (appendByte s.rt (fold c)) s))
  | segFieldLast (h : TakenAsDigit s.params c) (hst : s.st = .segField) (hc : s.cnt = 3) :
      ByteEffect c s (goTo .segFinal (setSeg (appendSeg s.seg (fold c)) s))
  | segFieldMore (h : TakenAsDigit s.params c) (hst : s.st = .segField) (hc : s.cnt ≠ 3) :
      ByteEffect c s (countDigit (setSeg (appendSeg s.seg (fold c)) s))
  | segFinal (h : TakenAsDigit s.params c) (hst : s.st = .segFinal) :
      ByteEffect c s (goTo .idle (setSeg (finalSeg s.seg) s))
  | dataDigit (h : TakenAsDigit s.params c) (hst : s.st = .data) (hc : s.cnt ≠ 7) :
      ByteEffect c s (countDigit (setAcc (appendAcc s.acc (fold c)) s))
  | dataWord (h : TakenAsDigit s.params c) (hst : s.st = .data) (hc : s.cnt = 7) :
      ByteEffect c s (finishWord (bswap32 (appendAcc s.acc (fold c))) s)

/-- The operation a byte selects answers a next state, one of those of `ByteEffect`. -/
theorem exec_effect (s : State) (c : Byte) :
    ∃ t, exec (decodeParts s.cnt s.st c) s = .next t ∧ ByteEffect c s t := by
  cases hc : classify c with
  | colon => exact ⟨_, by simp only [decodeParts, hc]; rfl, .colon hc⟩
  | cr => exact ⟨_, by simp only [decodeParts, hc]; rfl, .lineEnd (.inl hc)⟩
  | lf => exact ⟨_, by simp only [decodeParts, hc]; rfl, .lineEnd (.inr hc)⟩
  | go =>
    refine ⟨_, ?_, .go hc⟩
    simp only [decodeParts, hc]
    split <;> rfl
  | digit =>
    rw [decodeParts_digit _ _ _ hc]
    cases hst : s.st with
    | idle => exact ⟨s, rfl, .idle hc hst⟩
    | byteCount =>
      cases hi : digitIgnored s.params c with
      | true => exact ⟨_, (exec_bcDigit _ c s).trans (digitStep_ignored _ _ _ hi), .ignored hc hi⟩
      | false =>
        refine ⟨_, (exec_bcDigit _ c s).trans (digitStep_taken _ _ _ hi), ?_⟩
        rcases nextDigit_cases _ _ _ with ⟨hl, he⟩ | ⟨hl, he⟩ <;> rw [he]
        · exact .byteCountLast ⟨hc, hi⟩ hst hl
        · exact .byteCountMore ⟨hc, hi⟩ hst hl
    | address =>
      cases hi : digitIgnored s.params c with
      | true => exact ⟨_, (exec_addrDigit _ c s).trans (digitStep_ignored _ _ _ hi), .ignored hc hi⟩
      | false =>
        refine ⟨_, (exec_addrDigit _ c s).trans (digitStep_taken _ _ _ hi), ?_⟩
        rcases nextDigit_cases _ _ _ with ⟨hl, he⟩ | ⟨hl, he⟩ <;> rw [he]
        · exact .addressLast ⟨hc, hi⟩ hst hl
        · exact .addressMore ⟨hc, hi⟩ hst hl
    | recType1 =>
      cases hi : digitIgnored s.params c with
      | true => exact ⟨_, (exec_rt1Digit _ c s).trans (digitStep_ignored _ _ _ hi), .ignored hc hi⟩
      | false => exact ⟨_, (exec_rt1Digit _ c s).trans (digitStep_taken _ _ _ hi), .recType1 ⟨hc, hi⟩ hst⟩
    | recType2 =>
      cases hi : digitIgnored s.params c with
      | true => exact ⟨_, (exec_rt2Dispatch _ c s).trans (digitStep_ignored _ _ _ hi), .ignored hc hi⟩
      | false =>
        refine ⟨_, (exec_rt2Dispatch _ c s).trans (digitStep_taken _ _ _ hi), ?_⟩
        rcases dispatchType_cases _ with ⟨hr, he⟩ | ⟨hr, he⟩ | ⟨hr, he⟩ | ⟨hr, he⟩ <;> rw [he]
        · exact .typeData ⟨hc, hi⟩ hst hr
        · exact .typeEof ⟨hc, hi⟩ hst hr
        · exact .typeSegment ⟨hc, hi⟩ hst hr
        · exact .typeOther ⟨hc, hi⟩ hst hr
    | segField =>
      cases hi : digitIgnored s.params c with
      | true => exact ⟨_, (exec_segDigit _ c s).trans (digitStep_ignored _ _ _ hi), .ignored hc hi⟩
      | false =>
        refine ⟨_, (exec_segDigit _ c s).trans (digitStep_taken _ _ _ hi), ?_⟩
        rcases nextDigit_cases _ _ _ with ⟨hl, he⟩ | ⟨hl, he⟩ <;> rw [he]
        · exact .segFieldLast ⟨hc, hi⟩ hst hl
        · exact .segFieldMore ⟨hc, hi⟩ hst hl
    | segFinal =>
      cases hi : digitIgnored s.params c with
      | true => exact ⟨_, (exec_segFinal _ c s).trans (digitStep_ignored _ _ _ hi), .ignored hc hi⟩
      | false => exact ⟨_, (exec_segFinal _ c s).trans (digitStep_taken _ _ _ hi), .segFinal ⟨hc, hi⟩ hst⟩
    | data =>
      simp only [decodeDigit]
      split
      · cases hi : digitIgnored s.params c with
        | true => exact ⟨_, (exec_dataWord c s).trans (digitStep_ignored _ _ _ hi), .ignored hc hi⟩
        | false => exact ⟨_, (exec_dataWord c s).trans (digitStep_taken _ _ _ hi), .dataWord ⟨hc, hi⟩ hst ‹_›⟩
      · cases hi : digitIgnored s.params c with
        | true => exact ⟨_, (exec_dataDigit _ c s).trans (digitStep_ignored _ _ _ hi), .ignored hc hi⟩
        | false => exact ⟨_, (exec_dataDigit _ c s).trans (digitStep_taken _ _ _ hi), .dataDigit ⟨hc, hi⟩ hst ‹_›⟩

/-- A byte at IN of a block that is not halted: the step answers a next state of `ByteEffect`. -/
theorem step_effect (s : State) (c : Byte) (rest : List Byte) (h : s.halt = false) (hi : s.input = c :: rest) :
    ∃ t, step s = .next t ∧ ByteEffect c { s with input := rest } t := by
  rw [step_byte s c rest h hi]
  exact exec_effect { s with input := rest } c

/-- Everything a step that answers a next state can have done: nothing (halted, or no byte), or one byte's effect. -/
theorem step_cases (s t : State) (h : step s = .next t) :
    t = s ∨ ∃ (c : Byte) (rest : List Byte),
      s.halt = false ∧ s.input = c :: rest ∧ ByteEffect c { s with input := rest } t := by
  cases hh : s.halt with
  | true => rw [step_halted s hh] at h; cases h; exact .inl rfl
  | false =>
    cases hi : s.input with
    | nil =>
      rw [step_no_byte s hh hi, awaitByte] at h
      split at h
      · cases h
      · cases h; exact .inl rfl
    | cons c rest =>
      obtain ⟨u, hu, he⟩ := step_effect s c rest hh hi
      rw [hu] at h
      cases h
      exact .inr ⟨c, rest, rfl, rfl, hh ▸ he⟩

/-! ## Runs of steps -/

@[simp] theorem runSteps_zero (s : State) : runSteps 0 s = .next s := rfl

theorem runSteps_succ (k : Nat) (s t : State) (h : step s = .next t) : runSteps (k + 1) s = runSteps k t := by
  replace h : Sys2Proof.core.step s = .next t := h
  simp only [runSteps, Host.Core.run, h]
  rfl

/-- A run that answers a next state goes through a next state of its first step. -/
theorem runSteps_succ_next (k : Nat) (s t : State) (h : runSteps (k + 1) s = .next t) :
    ∃ u, step s = .next u ∧ runSteps k u = .next t := by
  simp only [runSteps, Host.Core.run] at h
  split at h
  · exact ⟨_, ‹_›, h⟩
  · cases h
  · cases h

/-- Two runs joined. -/
theorem runSteps_add (j k : Nat) (s t : State) (h : runSteps j s = .next t) :
    runSteps (j + k) s = runSteps k t := by
  induction j generalizing s with
  | zero => cases h; rw [Nat.zero_add]
  | succ j ih =>
    obtain ⟨u, hu, hr⟩ := runSteps_succ_next j s t h
    rw [show j + 1 + k = j + k + 1 by omega, runSteps_succ _ _ _ hu, ih u hr]

/-- What every step keeps, every run keeps. -/
theorem runSteps_keeps (Inv : State → Prop) (keep : ∀ s t, Inv s → step s = .next t → Inv t) (k : Nat) (s t : State)
    (hi : Inv s) (h : runSteps k s = .next t) : Inv t := by
  induction k generalizing s with
  | zero => cases h; exact hi
  | succ k ih =>
    obtain ⟨u, hu, hr⟩ := runSteps_succ_next k s t h
    exact ih u (keep s u hi hu) hr

/-! ## Events -/

@[simp] theorem writesOf_append (es fs : List Event) : writesOf (es ++ fs) = writesOf es ++ writesOf fs := by
  induction es with
  | nil => rfl
  | cons e es ih => cases e <;> simp [writesOf, ih]

theorem checksumOf_append (es fs : List Event) : checksumOf (es ++ fs) = checksumOf es + checksumOf fs := by
  simp [checksumOf]

/-- One more write is applied last. -/
theorem imageOf_write (es : List Event) (a v : Word) :
    imageOf (es ++ [.writeWord a v]) = storeWord (imageOf es) a v := by
  simp [imageOf, writesOf]

end Sys2Proof.Machine
end

