-- ==== Sys2Proof/Tests/Slice0.lean ====
section
/-! SUPPORT. The model's own tests. Expected values come from spec 95_test_vectors.md (rows H, D, O and trace V1) and from
the rules named; then one witness per statement that has hypotheses. -/

namespace Sys2Proof.Tests

open Sys2Proof Sys2Proof.Machine

/-! ## Well-formedness: each check refuses an ill-formed term -/

theorem test_wf_dataWord_refuses_colon : (Instr.dataWord 0x3A).wf = false := by decide
theorem test_wf_idleSkip_refuses_cr : (Instr.idleSkip 0 0x0D).wf = false := by decide
theorem test_wf_bcDigit_refuses_lf : (Instr.bcDigit 0 0x0A).wf = false := by decide
theorem test_wf_addrDigit_refuses_g : (Instr.addrDigit 0 0x67).wf = false := by decide
theorem test_wf_rt1Digit_refuses_upper_g : (Instr.rt1Digit 0 0x47).wf = false := by decide
theorem test_wf_rt2Dispatch_refuses_colon : (Instr.rt2Dispatch 0 0x3A).wf = false := by decide
theorem test_wf_segDigit_refuses_colon : (Instr.segDigit 0 0x3A).wf = false := by decide
theorem test_wf_segFinal_refuses_colon : (Instr.segFinal 0 0x3A).wf = false := by decide
theorem test_wf_dataDigit_refuses_colon : (Instr.dataDigit 0 0x3A).wf = false := by decide
theorem test_wf_dataDigit_refuses_cnt_seven : (Instr.dataDigit 7 0x30).wf = false := by decide
theorem test_wf_dataDigit_takes_nonhex : (Instr.dataDigit 6 0xFF).wf = true := by decide

/-! ## Decoding: one word per operation, `nnn sss cccccccc` written out from R78 -/

theorem test_decode_ovrColon : decode 0b01011100111010 = .ovrColon 2 .data := by decide
theorem test_decode_ovrCr : decode 0b00110100001101 = .ovrCr 1 .segField := by decide
theorem test_decode_ovrLf : decode 0b00000000001010 = .ovrLf 0 .idle := by decide
theorem test_decode_ovrGoLower : decode 0b11111101100111 = .ovrGoLower 7 .data := by decide
theorem test_decode_ovrGoUpper : decode 0b10011101000111 = .ovrGoUpper 4 .data := by decide
theorem test_decode_dataWord : decode 0b11111100110100 = .dataWord 0x34 := by decide
theorem test_decode_idleSkip : decode 0b00000001000110 = .idleSkip 0 0x46 := by decide
theorem test_decode_bcDigit : decode 0b00100100110100 = .bcDigit 1 0x34 := by decide
theorem test_decode_addrDigit : decode 0b01101000110000 = .addrDigit 3 0x30 := by decide
theorem test_decode_rt1Digit : decode 0b00001100110000 = .rt1Digit 0 0x30 := by decide
theorem test_decode_rt2Dispatch : decode 0b00010000110001 = .rt2Dispatch 0 0x31 := by decide
theorem test_decode_segDigit : decode 0b01010100110010 = .segDigit 2 0x32 := by decide
theorem test_decode_segFinal : decode 0b00011001000101 = .segFinal 0 0x45 := by decide
theorem test_decode_dataDigit : decode 0b11011100110011 = .dataDigit 6 0x33 := by decide

theorem test_decodeBytes_rejects_one_byte : decodeBytes [0x3A] = .error .notTwoBytes := by rfl
theorem test_decodeBytes_rejects_high_bits : decodeBytes [0x3A, 0x40] = .error .bitsAboveDecodeWord := by rfl
theorem test_decodeTableWord_short_row : decodeTableWord 8 0x003A = some (.ovrColon 0 .idle) := by decide
theorem test_decodeTableWord_dataWord : decodeTableWord 16 0x3F00 = some (.dataWord 0x00) := by decide

/-! ## A small state -/

/-- Test parameters: a platform that honours addresses below 2^28, the loader at 0x00F00000, FOLD. -/
def demoParams : Params :=
  { entryAddr := 0x8000
    validWrite := [⟨0, 0x0FFFFFFF⟩]
    misalignedWrite := .fault
    loaderRegion := [⟨0x00F00000, 0x00F0FFFF⟩]
    nonhexPolicy := .fold }

/-- The same with `NONHEX_POLICY` = IGNORE. -/
def ignoreParams : Params := { demoParams with nonhexPolicy := .ignore }

/-- A state at a sequencer position with bytes at IN. -/
def demo (st : ParserState) (cnt : Count) (input : List Byte) : State :=
  { State.resetWith demoParams with st := st, cnt := cnt, input := input }

/-- What a step shows of its next state. -/
def shown {α : Type} (f : State → α) (s : State) : Option α :=
  match step s with
  | .next t => some (f t)
  | .fault _ => none
  | .refused _ => none

/-! ## The nibble decoder (95 section 2.1) -/

theorem test_fold_at_nine : fold 0x39 = 9 := by decide
theorem test_fold_lower_a : fold 0x61 = 0xA := by decide
theorem test_fold_0x80_unsigned : fold 0x80 = 9 := by decide
theorem test_fold_0xFF : fold 0xFF = 8 := by decide

/-! ## One step of each operation -/

/-- O1 -/
theorem test_ovrColon_drops_partial_word :
    shown (fun t => (t.st, t.cnt, t.acc, t.seg, t.chk))
      { demo .data 2 [0x3A] with acc := 0x99, seg := 0x00010000, chk := 5 } =
      some (.byteCount, 0, 0, 0x00010000, 5) := by decide

/-- O3 -/
theorem test_ovrCr_drops_partial_word :
    shown (fun t => (t.st, t.cnt, t.acc, t.out)) { demo .data 2 [0x0D] with acc := 0xAB } =
      some (.idle, 0, 0, []) := by decide

/-- H9 -/
theorem test_ovrLf_keeps_address :
    shown (fun t => (t.st, t.cnt, t.addr)) { demo .address 2 [0x0A] with addr := 0x12 } =
      some (.idle, 0, 0x12) := by decide

/-- O6 -/
theorem test_ovrGoLower_halts :
    shown (fun t => (t.halt, t.out)) (demo .idle 0 [0x67]) =
      some (true, [.ack, .branch 0x8000]) := by decide

/-- O7 -/
theorem test_ovrGoUpper_keeps_registers :
    shown (fun t => (t.halt, t.st, t.cnt, t.acc)) { demo .data 4 [0x47] with acc := 0xFFFF } =
      some (true, .data, 4, 0xFFFF) := by decide

/-- D-2, its last digit: the store is little-endian of the converted word -/
theorem test_dataWord_writes_converted :
    shown (fun t => (t.out, t.chk, t.addr, t.cnt, t.acc)) { demo .data 7 [0x46] with acc := 0x0DEADBEE, addr := 0x100 } =
      some ([.writeWord 0x100 0xEFBEADDE], 0xEFBEAEDE, 0x104, 0, 0) := by decide
theorem test_dataWord_memory :
    shown (fun t => t.mem) { demo .data 7 [0x46] with acc := 0x0DEADBEE, addr := 0x100 } =
      some [(0x100, 0xDE), (0x101, 0xAD), (0x102, 0xBE), (0x103, 0xEF)] := by decide

/-- D-14 -/
theorem test_dataWord_misaligned_is_recorded :
    shown (fun t => (t.out, t.faults)) { demo .data 7 [0x34] with acc := 0x01122334, addr := 1 } =
      some ([.writeWord 1 0x44332211], ⟨false, true, false⟩) := by decide

/-- R201: invalid and over the loader -/
theorem test_dataWord_loader_is_recorded :
    shown (fun t => t.faults) { demo .data 7 [0x34] with addr := 0x00F00000 } = some ⟨false, false, true⟩ := by decide
theorem test_dataWord_invalid_is_recorded :
    shown (fun t => (t.faults, t.addr)) { demo .data 7 [0x34] with addr := 0xFFFFFFFC } =
      some (⟨true, false, false⟩, 0) := by decide

/-- H1 -/
theorem test_idleSkip_changes_nothing : step (demo .idle 0 [0x41]) = .next (demo .idle 0 []) := by rfl

/-- H2, its second digit -/
theorem test_bcDigit_second_digit :
    shown (fun t => (t.st, t.cnt, t.bc)) { demo .byteCount 1 [0x30] with bc := 0x41 } =
      some (.address, 0, 0x10) := by decide

/-- H3, its first digit: `SEG` is ORed in at once -/
theorem test_addrDigit_ors_segment :
    shown (fun t => (t.st, t.cnt, t.addr)) { demo .address 0 [0x30] with addr := 0xDEAD, seg := 0x10 } =
      some (.address, 1, 0xEAD0 ||| 0x10) := by decide
/-- H5, its last digit -/
theorem test_addrDigit_last_digit :
    shown (fun t => (t.st, t.cnt, t.addr)) { demo .address 3 [0x46] with addr := 0x00010FFF, seg := 0x00010000 } =
      some (.recType1, 0, 0x0001FFFF) := by decide

/-- R104, its example -/
theorem test_rt1Digit_shifts_old_type :
    shown (fun t => (t.st, t.rt)) { demo .recType1 0 [0x30] with rt := 0x02 } = some (.recType2, 0x20) := by decide

/-- H10 -/
theorem test_rt2Dispatch_masks_to_eight_bits :
    shown (fun t => (t.st, t.rt)) { demo .recType2 0 [0x30] with rt := 0x10 } = some (.data, 0x00) := by decide
/-- H11 -/
theorem test_rt2Dispatch_reports_checksum :
    shown (fun t => (t.st, t.out, t.chk)) { demo .recType2 0 [0x31] with chk := 0x1234 } =
      some (.idle, [.checksumReport 0x1234], 0x1234) := by decide

/-- H17, its fourth digit -/
theorem test_segDigit_last_digit :
    shown (fun t => (t.st, t.cnt, t.seg)) { demo .segField 3 [0x30] with seg := 0x0200 } =
      some (.segFinal, 0, 0x2000) := by decide

/-- H18, its fifth byte: not masked to 16 bits, any byte drives it -/
theorem test_segFinal_is_not_masked :
    shown (fun t => (t.st, t.seg)) { demo .segFinal 0 [0x78] with seg := 0xFFFF } =
      some (.idle, 0x000FFFF0) := by decide

/-- D-1 -/
theorem test_dataDigit_appends :
    shown (fun t => (t.cnt, t.acc)) { demo .data 5 [0x33] with acc := 0x12 } = some (6, 0x123) := by decide

/-- 95 section 2.2, its last paragraph: under IGNORE the `Q` of H16 and the `x` of H18 change nothing -/
theorem test_ignore_policy_rt2Dispatch :
    step { demo .recType2 0 [0x51] with params := ignoreParams } =
      .next { demo .recType2 0 [] with params := ignoreParams } := by rfl
theorem test_ignore_policy_segFinal :
    shown (fun t => (t.st, t.seg)) { demo .segFinal 0 [0x78] with seg := 0xFFFF, params := ignoreParams } =
      some (.segFinal, 0xFFFF) := by decide

/-- O9 -/
theorem test_halted_takes_no_byte :
    step { demo .idle 0 [0x3A] with halt := true } = .next { demo .idle 0 [0x3A] with halt := true } := by rfl

/-- R206 and I1 -/
theorem test_waiting_changes_nothing : step State.reset = .next State.reset := by rfl
theorem test_failed_source_is_stuck : step (State.failSource State.reset) = .fault .byteSourceFailed := by rfl

/-- `withFetchWord` places a row's word so that the next step runs it, also with the open parameters free. -/
theorem test_fetchWord_dataWord :
    shown (fun t => (t.out, t.cnt)) (State.reset.withFetchWord 16 0x3F30) = some ([.writeWord 0 0], 0) := by decide
theorem test_fetchWord_segDigit :
    shown (fun t => (t.st, t.cnt, t.seg)) (State.reset.withFetchWord 16 0x0D35) = some (.segField, 2, 5) := by decide

/-! ## Witnesses: the hypotheses of each statement hold together -/

theorem witness_FoldReadsHexDigits : 0 < 16 ∧ 9 ≤ 9 ∧ (10 < 16 ∧ 10 ≤ 10) ∧ (15 < 16 ∧ 10 ≤ 15) := by decide
theorem witness_OverridesAreCheckedFirst :
    classify 0x3A = .colon ∧ classify 0x0D = .cr ∧ classify 0x0A = .lf ∧ classify 0x67 = .go ∧ classify 0x47 = .go ∧
      classify 0x00 = .digit ∧ classify 0xFF = .digit := by decide
theorem witness_DecodeOfEncode : (Instr.dataDigit 6 0xFF).wf = true ∧ (Instr.ovrCr 7 .data).wf = true := by decide
theorem witness_StepRunsTheDecodedOperation :
    (demo .data 7 [0x30]).halt = false ∧ (demo .data 7 [0x30]).input = 0x30 :: [] ∧
      decode (packD 7 .data 0x30) = .dataWord 0x30 := by decide
theorem witness_HaltedBlockTakesNoStep : ({ demo .idle 0 [0x3A] with halt := true } : State).halt = true := by decide
theorem witness_HaltedBlockNeverRunsAgain : ({ demo .data 4 [] with halt := true } : State).halt = true := by decide
theorem witness_NoByteMeansWaiting :
    ((demo .idle 0 []).halt = false ∧ (demo .idle 0 []).input = [] ∧ (demo .idle 0 []).sourceFailed = false) ∧
    ((State.failSource (demo .idle 0 [])).halt = false ∧ (State.failSource (demo .idle 0 [])).input = [] ∧
      (State.failSource (demo .idle 0 [])).sourceFailed = true) := by decide

/-- A digit byte is not ignored under FOLD, and a hex digit not under IGNORE. -/
theorem witness_ByteCountDigit :
    digitIgnored (demo .byteCount 1 []).params 0xFF = false ∧
    ((demo .byteCount 0 [0x31, 0x20]).halt = false ∧ (demo .byteCount 0 [0x31, 0x20]).st = .byteCount ∧
      (demo .byteCount 0 [0x31, 0x20]).cnt = 0 ∧ (demo .byteCount 0 [0x31, 0x20]).input = 0x31 :: 0x20 :: [] ∧
      TakenAsDigit demoParams 0x31 ∧ TakenAsDigit demoParams 0x20) := by
  unfold TakenAsDigit
  decide
theorem witness_AddressDigit : digitIgnored (demo .address 3 []).params 0x20 = false := by decide
theorem witness_FirstTypeDigit : digitIgnored (demo .recType1 0 []).params 0x30 = false := by decide
theorem witness_SecondTypeDigitDispatches :
    digitIgnored (demo .recType2 0 []).params 0x30 = false ∧
    (0x00 : Byte) = ((0x00 <<< 4) ||| (fold 0x30).setWidth 8) &&& 0xFF ∧
    (0x01 : Byte) = ((0x00 <<< 4) ||| (fold 0x31).setWidth 8) &&& 0xFF ∧
    (0x02 : Byte) = ((0x00 <<< 4) ||| (fold 0x32).setWidth 8) &&& 0xFF ∧
    (0x03 : Byte) = ((0x00 <<< 4) ||| (fold 0x33).setWidth 8) &&& 0xFF ∧ (0x03 : Byte) ≠ 0x00 ∧
    (0x03 : Byte) ≠ 0x01 ∧ (0x03 : Byte) ≠ 0x02 := by decide
theorem witness_SegmentDigit : digitIgnored ignoreParams 0x66 = false := by decide
theorem witness_SegmentFinalShifts : digitIgnored (demo .segFinal 0 []).params 0x78 = false := by decide
theorem witness_DataDigitAccumulates : digitIgnored (demo .data 6 []).params 0x30 = false := by decide
theorem witness_DataWordWritesAddsAdvances :
    digitIgnored (demo .data 7 []).params 0x34 = false ∧
      (0x04000000 : Word) = bswap32 (((demo .data 7 []).acc <<< 4) ||| (fold 0x34).setWidth 32) := by decide
theorem witness_IgnorePolicyDropsNonhexBytes :
    ({ demo .data 7 [] with params := ignoreParams } : State).params.nonhexPolicy = .ignore ∧
      isHexDigit 0x51 = false := by decide
theorem witness_FoldPolicyTakesEveryDigitByte :
    classify 0xFF = .digit ∧ demoParams.nonhexPolicy = .fold ∧ classify 0x66 = .digit ∧ isHexDigit 0x66 = true := by
  decide
theorem witness_DataWordStoresFourBytes :
    digitIgnored (demo .data 7 []).params 0x34 = false ∧
      (0x04000000 : Word) = bswap32 (((demo .data 7 []).acc <<< 4) ||| (fold 0x34).setWidth 32) ∧
      anyFault (writeFaults (demo .data 7 []).params (demo .data 7 []).addr) = false ∧
      ∃ t, exec (.dataWord 0x34) (demo .data 7 []) = .next t := ⟨by decide, by decide, by decide, _, rfl⟩
theorem witness_DataWordRecordsPlatformFaults : digitIgnored demoParams 0x34 = false := by decide
theorem witness_OnlyDataWordStores :
    (∃ t, exec (.rt2Dispatch 0 0x31) (demo .recType2 0 []) = .next t) ∧ ∀ c : Byte, Instr.rt2Dispatch 0 0x31 ≠ .dataWord c :=
  ⟨⟨_, rfl⟩, fun _ h => nomatch h⟩
theorem witness_WordWriteNeedsTheEighthDigit :
    ∃ t, step (demo .data 7 [0x30]) = .next t ∧ writesOf t.out ≠ writesOf (demo .data 7 [0x30]).out :=
  ⟨_, rfl, by decide⟩

/-- Each register can be seen to change. -/
theorem witness_RegistersChangeOnlyInTheirStates :
    (shown (fun t => t.bc) (demo .byteCount 1 [0x31]) = some 1 ∧ (demo .byteCount 1 [0x31]).bc = 0) ∧
    shown (fun t => t.addr) (demo .address 3 [0x31]) = some 1 ∧
    shown (fun t => t.addr) (demo .data 7 [0x31]) = some 4 ∧
    shown (fun t => t.rt) (demo .recType1 0 [0x31]) = some 1 ∧ shown (fun t => t.rt) (demo .recType2 0 [0x31]) = some 1 ∧
    shown (fun t => t.seg) (demo .segField 3 [0x31]) = some 1 ∧
    shown (fun t => t.seg) { demo .segFinal 0 [0x31] with seg := 1 } = some 0x10 ∧
    shown (fun t => t.chk) (demo .data 7 [0x31]) = some 0x01000000 ∧
    shown (fun t => t.halt) (demo .idle 0 [0x67]) = some true := by decide

/-- Each row of R112, its boundary values of `CNT` and of the new `RT` among them. -/
theorem witness_TransitionRelation :
    (demo .idle 0 [0x30]).halt = false ∧ digitIgnored demoParams 0x30 = false ∧ classify 0x30 = .digit ∧
    shown (fun t => t.st) (demo .segFinal 0 [0x3A]) = some .byteCount ∧
    shown (fun t => t.st) (demo .segFinal 0 [0x0D]) = some .idle ∧
    shown (fun t => t.st) (demo .segFinal 0 [0x0A]) = some .idle ∧
    shown (fun t => t.halt) (demo .segFinal 0 [0x47]) = some true ∧
    shown (fun t => t.st) (demo .idle 0 [0x30]) = some .idle ∧
    shown (fun t => t.st) (demo .byteCount 0 [0x30]) = some .byteCount ∧
    shown (fun t => t.st) (demo .byteCount 1 [0x30]) = some .address ∧
    shown (fun t => t.st) (demo .address 2 [0x30]) = some .address ∧
    shown (fun t => t.st) (demo .address 3 [0x30]) = some .recType1 ∧
    shown (fun t => t.st) (demo .recType1 0 [0x30]) = some .recType2 ∧
    shown (fun t => (t.st, t.rt)) (demo .recType2 0 [0x30]) = some (.data, 0) ∧
    shown (fun t => (t.st, t.rt)) (demo .recType2 0 [0x31]) = some (.idle, 1) ∧
    shown (fun t => (t.st, t.rt)) (demo .recType2 0 [0x32]) = some (.segField, 2) ∧
    shown (fun t => (t.st, t.rt)) (demo .recType2 0 [0x33]) = some (.idle, 3) ∧
    shown (fun t => t.st) (demo .segField 2 [0x30]) = some .segField ∧
    shown (fun t => t.st) (demo .segField 3 [0x30]) = some .segFinal ∧
    shown (fun t => t.st) (demo .segFinal 0 [0x30]) = some .idle ∧
    shown (fun t => t.st) (demo .data 6 [0x30]) = some .data ∧
    shown (fun t => t.st) (demo .data 7 [0x30]) = some .data := by decide
theorem witness_EventsOfOneStep : ∃ t, step (demo .recType2 0 [0x31]) = .next t ∧ t.out = [.checksumReport 0] :=
  ⟨_, rfl, rfl⟩
theorem witness_OnlyAnOverrideLeavesData :
    (∃ t, step (demo .data 3 [0x0D]) = .next t ∧ (demo .data 3 [0x0D]).st = .data ∧ t.st ≠ .data) ∧
    ((demo .data 7 [0x30]).halt = false ∧ (demo .data 7 [0x30]).st = .data ∧ (demo .data 7 [0x30]).cnt = 7 ∧
      (demo .data 7 [0x30]).input = 0x30 :: [] ∧ TakenAsDigit (demo .data 7 [0x30]).params 0x30) :=
  ⟨⟨_, rfl, rfl, by decide⟩, rfl, rfl, rfl, rfl, by unfold TakenAsDigit; decide⟩
theorem witness_PlatformFaultsAreNeverCleared :
    ∃ t, step { demo .data 3 [0x0D] with faults := ⟨true, true, true⟩ } = .next t ∧
      PlatformFaulted { demo .data 3 [0x0D] with faults := ⟨true, true, true⟩ } ∧
      runSteps 1 { demo .data 3 [0x0D] with faults := ⟨true, true, true⟩ } = .next t := ⟨_, rfl, rfl, rfl⟩
theorem witness_AddressFieldFormula :
    ((demo .address 0 [0x46, 0x66, 0x30, 0x20]).halt = false ∧
      (demo .address 0 [0x46, 0x66, 0x30, 0x20]).input = 0x46 :: 0x66 :: 0x30 :: 0x20 :: [] ∧
      TakenAsDigit demoParams 0x46 ∧ TakenAsDigit demoParams 0x66 ∧ TakenAsDigit demoParams 0x30 ∧
      TakenAsDigit demoParams 0x20) ∧
    (0x000FF000 : Word).extractLsb' 0 12 = 0 ∧ (0x000F0000 : Word).extractLsb' 0 16 = 0 := by
  unfold TakenAsDigit
  decide
theorem witness_SegmentRecordLoadsSegment :
    (demo .segField 0 [0x46, 0x46, 0x46, 0x46, 0x78]).halt = false ∧
      (demo .segField 0 [0x46, 0x46, 0x46, 0x46, 0x78]).input = 0x46 :: 0x46 :: 0x46 :: 0x46 :: 0x78 :: [] ∧
      TakenAsDigit demoParams 0x46 ∧ TakenAsDigit demoParams 0x78 := by
  unfold TakenAsDigit
  decide
theorem witness_PartialSegmentStays :
    (demo .segField 0 ([0x31, 0x32, 0x33, 0x34] ++ 0x0D :: [])).halt = false ∧
      1 ≤ [(0x31 : Byte)].length ∧ [(0x31 : Byte), 0x32, 0x33, 0x34].length ≤ 4 ∧
      (∀ c ∈ [(0x31 : Byte), 0x32, 0x33, 0x34], TakenAsDigit demoParams c) ∧
      classify 0x3A = .colon ∧ classify 0x0D = .cr ∧ classify 0x0A = .lf := by
  unfold TakenAsDigit
  decide
theorem witness_EightDigitsLoadOneWord :
    (demo .data 0 [0x30, 0x31, 0x32, 0x33, 0x34, 0x35, 0x36, 0x37]).halt = false ∧
      (demo .data 0 []).acc = 0 ∧
      (∀ c ∈ [(0x30 : Byte), 0x31, 0x32, 0x33, 0x34, 0x35, 0x36, 0x37], TakenAsDigit demoParams c) ∧
      anyFault (writeFaults demoParams (demo .data 0 []).addr) = false := by
  unfold TakenAsDigit
  decide
theorem witness_DataDigitsWriteOneWordPerEight :
    (demo .data 0 ([0x41, 0x42] ++ [0x0D])).halt = false ∧
      (∀ c ∈ [(0x41 : Byte), 0x42], TakenAsDigit demoParams c) ∧ [(0x41 : Byte), 0x42].length = 2 * 0 + 2 := by
  unfold TakenAsDigit
  decide
theorem witness_GoEndsTheRun :
    (demo .idle 0 ([0x3A, 0x30] ++ 0x67 :: [0x30])).halt = false ∧
      (∀ c ∈ [(0x3A : Byte), 0x30], classify c ≠ .go) ∧ classify 0x67 = .go ∧ classify 0x47 = .go := by decide

/-- A state in the middle of a data word, after one word has been written. -/
def midWord : State :=
  { demo .data 3 [0x30] with
    acc := 0xFFF, addr := 4, seg := 0x000FFFF0, chk := 0x34120000, out := [.writeWord 0 0x34120000],
    mem := [(0, 0x00), (1, 0x00), (2, 0x12), (3, 0x34)] }

theorem witness_StepKeepsMemoryCanonical : MemCanonical midWord ∧ ∃ t, step midWord = .next t :=
  ⟨by unfold MemCanonical; decide, _, rfl⟩
theorem witness_StepKeepsCntInRange : CntInRange midWord ∧ ∃ t, step midWord = .next t :=
  ⟨by show (3 : Count).toNat ≤ 7; decide, _, rfl⟩
theorem witness_StepKeepsAccBelowItsDigits : AccHoldsDigits midWord ∧ ∃ t, step midWord = .next t :=
  ⟨by unfold AccHoldsDigits; decide, _, rfl⟩
theorem witness_StepKeepsSegBounded : SegBounded midWord ∧ ∃ t, step midWord = .next t :=
  ⟨by unfold SegBounded; decide, _, rfl⟩
theorem witness_StepKeepsChkTheSumOfWrites : ChkIsSum midWord ∧ ∃ t, step midWord = .next t :=
  ⟨by unfold ChkIsSum; decide, _, rfl⟩
theorem witness_StepKeepsMemoryTheImageOfWrites : MemIsImage midWord ∧ ∃ t, step midWord = .next t :=
  ⟨fun _ => by decide, _, rfl⟩
theorem witness_StepKeepsHaltTheBranch : HaltIsBranch midWord ∧ ∃ t, step midWord = .next t :=
  ⟨by unfold HaltIsBranch; rw [if_neg (by decide)]; rfl, _, rfl⟩

/-- A run of one byte that is complete. -/
theorem witness_CompleteRunObservation : ∃ t, runFromReset demoParams [0x67] 1 = .next t ∧ Complete t :=
  ⟨_, rfl, rfl, by unfold PlatformFaulted; decide⟩
theorem witness_ByteCountIsNeverRead : ∃ t, runSteps 1 (demo .byteCount 0 [0x31]) = .next t := ⟨_, rfl⟩
theorem witness_FieldValuesInIdleAreUnobservable :
    (demo .idle 0 [0x3A]).st = .idle ∧ ∃ t, runSteps 1 (demo .idle 0 [0x3A]) = .next t := ⟨rfl, _, rfl⟩

end Sys2Proof.Tests
end

section
/-! ## Nothing reads `BC` (R24)

Every operation commutes with overwriting `BC`, up to the value `BC` ends with, so a run from a state with another `BC`
stays equal to the original run but for `BC`. -/

namespace Sys2Proof.Machine

/-- An update does not read `BC`, except to compute the next `BC`: run after an overwrite of `BC`, it gives the same
state but for `BC`. -/
def UpdateIgnoresBc (op : State → State) : Prop :=
  ∀ (b : Byte) (s : State), ∃ b' : Byte, op (setBc b s) = setBc b' (op s)

/-- The same for an operation that can also stop: where it answers a next state, so does it after an overwrite of `BC`,
and the two differ in `BC` alone. -/
def IgnoresBc (f : State → Host.Outcome State Fault Refusal) : Prop :=
  ∀ (s t : State) (b : Byte), f s = .next t → ∃ b' : Byte, f (setBc b s) = .next (setBc b' t)

/-! ### The updates -/

@[simp] theorem setBc_setBc (b b' : Byte) (s : State) : setBc b' (setBc b s) = setBc b' s := rfl

theorem nextDigit_setBc (last : Count) (st : ParserState) (b : Byte) (s : State) :
    nextDigit last st (setBc b s) = setBc b (nextDigit last st s) := by
  rcases nextDigit_cases last st s with ⟨hc, he⟩ | ⟨hc, he⟩ <;> rw [he]
  · exact nextDigit_last last st (setBc b s) hc
  · exact nextDigit_more last st (setBc b s) hc

theorem dispatchType_setBc (b : Byte) (s : State) : dispatchType (setBc b s) = setBc b (dispatchType s) := by
  unfold dispatchType
  rw [setBc_rt]
  split_ifs <;> rfl

/-- The one update that has `BC` as an operand writes nothing but `BC` with it. -/
theorem bcDigit_ignoresBc (n : Nibble) :
    UpdateIgnoresBc fun s => nextDigit 1 .address (setBc (appendByte s.bc n) s) :=
  fun b s => ⟨appendByte b n, by simp [nextDigit_setBc]⟩

/-! ### One step -/

theorem next_ignoresBc {op : State → State} (h : UpdateIgnoresBc op) : IgnoresBc fun s => .next (op s) := by
  intro s t b ht
  cases ht
  obtain ⟨b', hb⟩ := h b s
  exact ⟨b', congrArg _ hb⟩

/-- A digit operation, given by its equation over the shared frame, ignores `BC` when its update does. -/
theorem digitStep_ignoresBc {f : State → Host.Outcome State Fault Refusal} {c : Byte} {op : Nibble → State → State}
    (hf : ∀ s, f s = digitStep c op s) (hop : ∀ n, UpdateIgnoresBc (op n)) : IgnoresBc f := by
  intro s t b ht
  rw [hf] at ht ⊢
  cases hi : digitIgnored s.params c with
  | true =>
    rw [digitStep_ignored c op s hi] at ht
    cases ht
    exact ⟨b, digitStep_ignored c op (setBc b s) hi⟩
  | false =>
    rw [digitStep_taken c op s hi] at ht
    rw [digitStep_taken c op (setBc b s) hi]
    exact next_ignoresBc (hop (fold c)) s t b ht

theorem awaitByte_ignoresBc : IgnoresBc awaitByte := by
  intro s t b ht
  refine ⟨b, ?_⟩
  unfold awaitByte at ht ⊢
  rw [setBc_sourceFailed]
  split_ifs at ht ⊢
  cases ht
  rfl

theorem exec_ignoresBc (i : Instr) : IgnoresBc (exec i) := by
  cases i with
  | ovrColon _ _ | ovrCr _ _ | ovrLf _ _ | ovrGoLower _ _ | ovrGoUpper _ _ | idleSkip _ _ =>
    exact next_ignoresBc fun b _ => ⟨b, rfl⟩
  | bcDigit cnt c => exact digitStep_ignoresBc (exec_bcDigit cnt c) bcDigit_ignoresBc
  | addrDigit cnt c => exact digitStep_ignoresBc (exec_addrDigit cnt c) fun n b s =>
    ⟨b, nextDigit_setBc 3 .recType1 b (setAddr (appendAddr s.addr s.seg n) s)⟩
  | rt1Digit cnt c => exact digitStep_ignoresBc (exec_rt1Digit cnt c) fun _ b _ => ⟨b, rfl⟩
  | rt2Dispatch cnt c => exact digitStep_ignoresBc (exec_rt2Dispatch cnt c) fun n b s =>
    ⟨b, dispatchType_setBc b (setRt (appendByte s.rt n) s)⟩
  | segDigit cnt c => exact digitStep_ignoresBc (exec_segDigit cnt c) fun n b s =>
    ⟨b, nextDigit_setBc 3 .segFinal b (setSeg (appendSeg s.seg n) s)⟩
  | segFinal cnt c => exact digitStep_ignoresBc (exec_segFinal cnt c) fun _ b _ => ⟨b, rfl⟩
  | dataDigit cnt c => exact digitStep_ignoresBc (exec_dataDigit cnt c) fun _ b _ => ⟨b, rfl⟩
  | dataWord c => exact digitStep_ignoresBc (exec_dataWord c) fun _ b _ => ⟨b, rfl⟩

theorem step_ignoresBc : IgnoresBc step := by
  intro s t b ht
  cases hh : s.halt with
  | true =>
    rw [step_halted s hh] at ht
    cases ht
    exact ⟨b, step_halted (setBc b s) hh⟩
  | false =>
    cases hi : s.input with
    | nil =>
      rw [step_no_byte s hh hi] at ht
      rw [step_no_byte (setBc b s) hh hi]
      exact awaitByte_ignoresBc s t b ht
    | cons c rest =>
      rw [step_byte s c rest hh hi] at ht
      rw [step_byte (setBc b s) c rest hh hi]
      exact exec_ignoresBc _ _ t b ht

/-! ### Runs -/

theorem runSteps_ignoresBc (k : Nat) : IgnoresBc (runSteps k) := by
  induction k with
  | zero => exact next_ignoresBc fun b _ => ⟨b, rfl⟩
  | succ k ih =>
    intro s t b ht
    obtain ⟨u, hu, hr⟩ := runSteps_succ_next k s t ht
    obtain ⟨b₁, hstep⟩ := step_ignoresBc s u b hu
    rw [runSteps_succ k _ _ hstep]
    exact ih u t b₁ hr

/-- Settles O53: one step does not read `BC`, and by induction on the number of steps no run does. -/
theorem byteCountIsNeverRead : Obligations.ByteCountIsNeverRead := runSteps_ignoresBc

end Sys2Proof.Machine
end

section
/-! ## Overrides come before the state's operation (R72)

What the decoder answers on each class of byte; `decodeParts_digit` is the fifth case. -/

namespace Sys2Proof

theorem decodeParts_colon (cnt : Count) (st : ParserState) (c : Byte) (h : classify c = .colon) :
    decodeParts cnt st c = .ovrColon cnt st := by simp [decodeParts, h]

theorem decodeParts_cr (cnt : Count) (st : ParserState) (c : Byte) (h : classify c = .cr) :
    decodeParts cnt st c = .ovrCr cnt st := by simp [decodeParts, h]

theorem decodeParts_lf (cnt : Count) (st : ParserState) (c : Byte) (h : classify c = .lf) :
    decodeParts cnt st c = .ovrLf cnt st := by simp [decodeParts, h]

theorem decodeParts_go (cnt : Count) (st : ParserState) (c : Byte) (h : classify c = .go) :
    decodeParts cnt st c = if c = chGoLower then .ovrGoLower cnt st else .ovrGoUpper cnt st := by
  simp [decodeParts, h]

/-- Settles O6: the decoder looks at the class of the byte first, and only its DIGIT case looks at the state. -/
theorem overridesAreCheckedFirst : Obligations.OverridesAreCheckedFirst := by
  intro cnt st c
  rw [decode_packD]
  refine ⟨decodeParts_colon cnt st c, decodeParts_cr cnt st c, decodeParts_lf cnt st c, decodeParts_go cnt st c, ?_⟩
  intro h
  rw [decodeParts_digit cnt st c h]
  cases st <;> rfl

end Sys2Proof
end

section
/-! ## The record header, one digit at a time (R100, R101, R104) -/

namespace Sys2Proof.Machine

/-! ### Appending a nibble to an 8-bit field (R77) -/

/-- An 8-bit field has room for two nibbles: appending two of them shifts the old value out. -/
theorem appendByte_appendByte (v : Byte) (n₁ n₂ : Nibble) : appendByte (appendByte v n₁) n₂ = n₁ ++ n₂ := by
  have mask (x : Byte) : x &&& 0xFF = x := BitVec.and_allOnes
  apply BitVec.eq_of_getLsbD_eq
  intro i hi
  simp only [appendByte, mask, BitVec.getLsbD_or, BitVec.getLsbD_shiftLeft, BitVec.getLsbD_setWidth,
    BitVec.getLsbD_append]
  by_cases h : i < 4
  · simp [h, hi]
  · simp [h, hi, show i - 4 < 8 by omega, show i - 4 < 4 by omega, BitVec.getLsbD_of_ge n₂ i (by omega)]

/-! ### A byte-count digit (R101) -/

/-- Counting a digit writes `ST` and `CNT` and nothing else. -/
theorem nextDigit_eq (last : Count) (st : ParserState) (s : State) : nextDigit last st s = { s with
    st := if s.cnt = last then st else s.st
    cnt := if s.cnt = last then 0 else s.cnt + 1 } := by
  rcases nextDigit_cases last st s with ⟨hc, he⟩ | ⟨hc, he⟩
  · rw [he, if_pos hc, if_pos hc]; rfl
  · rw [he, if_neg hc, if_neg hc]; rfl

theorem exec_bcDigit_taken (cnt : Count) (c : Byte) (s : State) (h : digitIgnored s.params c = false) :
    exec (.bcDigit cnt c) s = .next { s with
      bc := appendByte s.bc (fold c)
      st := if s.cnt = 1 then .address else s.st
      cnt := if s.cnt = 1 then 0 else s.cnt + 1 } := by
  rw [exec_bcDigit, digitStep_taken _ _ _ h, nextDigit_eq]
  rfl

theorem step_byteCount_taken (s : State) (c : Byte) (rest : List Byte) (hh : s.halt = false)
    (hst : s.st = .byteCount) (hi : s.input = c :: rest) (h : TakenAsDigit s.params c) :
    step s = .next { s with
      bc := appendByte s.bc (fold c)
      st := if s.cnt = 1 then .address else s.st
      cnt := if s.cnt = 1 then 0 else s.cnt + 1
      input := rest } := by
  obtain ⟨hc, htaken⟩ := h
  have hdec : decodeParts s.cnt s.st c = .bcDigit s.cnt c := by
    rw [decodeParts_digit _ _ _ hc, hst]
    rfl
  rw [step_byte s c rest hh hi, hdec]
  exact exec_bcDigit_taken s.cnt c { s with input := rest } htaken

/-- The two digits of the field, from its start: the first is counted, the second leaves for `ADDRESS`. -/
theorem runSteps_byteCount_field (c₁ c₂ : Byte) (rest : List Byte) (s : State) (hh : s.halt = false)
    (hst : s.st = .byteCount) (hc : s.cnt = 0) (hi : s.input = c₁ :: c₂ :: rest)
    (h₁ : TakenAsDigit s.params c₁) (h₂ : TakenAsDigit s.params c₂) :
    runSteps 2 s = .next { s with bc := fold c₁ ++ fold c₂, st := .address, cnt := 0, input := rest } := by
  have first : step s = .next { s with bc := appendByte s.bc (fold c₁), cnt := 1, input := c₂ :: rest } := by
    simpa [hc] using step_byteCount_taken s c₁ (c₂ :: rest) hh hst hi h₁
  have second := step_byteCount_taken { s with bc := appendByte s.bc (fold c₁), cnt := 1, input := c₂ :: rest }
    c₂ rest hh hst rfl h₂
  rw [runSteps_succ 1 s _ first, runSteps_succ 0 _ _ second, runSteps_zero, appendByte_appendByte]
  rfl

/-- Settles O18: the digit is appended to `BC` and counted, and two appended nibbles fill `BC`. -/
theorem byteCountDigit : Obligations.ByteCountDigit :=
  ⟨exec_bcDigit_taken, runSteps_byteCount_field⟩

/-! ### A digit in `IDLE` (R100), and the first record-type digit (R104) -/

/-- Settles O17: `IDLE_SKIP` has no effect, and it is the one digit operation that does not ask the policy. -/
theorem idleIgnoresDigits : Obligations.IdleIgnoresDigits := fun _ _ _ => rfl

/-- Settles O20: the digit that the policy takes is appended to `RT` and the parser goes to `RECTYPE2`. -/
theorem firstTypeDigit : Obligations.FirstTypeDigit :=
  fun cnt c s h => (exec_rt1Digit cnt c s).trans (digitStep_taken _ _ _ h)

end Sys2Proof.Machine
end

section
/-! ## The data state is cyclic (R145) -/

namespace Sys2Proof.Machine

/-- In `DATA` neither `g`/`G` nor a digit, ignored or taken, writes another state to `ST`. -/
theorem ByteEffect.override_of_leaves_data {c : Byte} {s t : State} (he : ByteEffect c s t) (hst : s.st = .data)
    (hleave : t.st ≠ .data) : classify c = .colon ∨ classify c = .cr ∨ classify c = .lf := by
  cases he with
  | colon h => exact .inl h
  | lineEnd h => exact .inr h
  | go | ignored | idle | dataDigit | dataWord => exact absurd hst hleave
  | byteCountLast _ hs | byteCountMore _ hs | addressLast _ hs | addressMore _ hs | recType1 _ hs
  | typeData _ hs | typeEof _ hs | typeSegment _ hs | typeOther _ hs
  | segFieldLast _ hs | segFieldMore _ hs | segFinal _ hs => cases hs.symm.trans hst

/-- The step that takes a word's eighth digit finishes the word. -/
theorem step_dataWord_taken (s : State) (c : Byte) (rest : List Byte) (hh : s.halt = false) (hst : s.st = .data)
    (hcnt : s.cnt = 7) (hi : s.input = c :: rest) (h : TakenAsDigit s.params c) :
    step s = .next (finishWord (bswap32 (appendAcc s.acc (fold c))) { s with input := rest }) := by
  obtain ⟨hc, htaken⟩ := h
  have hdec : decodeParts s.cnt s.st c = .dataWord c := by
    rw [decodeParts_digit _ _ _ hc, hst, hcnt]
    rfl
  rw [step_byte s c rest hh hi, hdec, exec_dataWord]
  exact digitStep_taken c _ { s with input := rest } htaken

/-- Settles O36: only `:`, CR and LF have an effect that leaves `DATA`, and finishing a word keeps `ST` while it
restarts the digit counter and the accumulator. -/
theorem onlyAnOverrideLeavesData : Obligations.OnlyAnOverrideLeavesData := by
  constructor
  · intro s t hstep hst hleave
    rcases step_cases s t hstep with rfl | ⟨c, rest, -, hi, he⟩
    · exact absurd hst hleave
    · exact ⟨c, rest, hi, he.override_of_leaves_data hst hleave⟩
  · intro s c rest hh hst hcnt hi h
    exact ⟨_, step_dataWord_taken s c rest hh hst hcnt hi h, hst, finishWord_cnt _ _, finishWord_acc _ _⟩

end Sys2Proof.Machine
end

section
/-! ## The control transfer (R173, R174) -/

namespace Sys2Proof.Machine

/-- The control transfer writes `OUT` and `HALT` and nothing else. -/
theorem controlTransfer_eq (s : State) : controlTransfer s =
    { s with out := s.out ++ [.ack, .branch s.params.entryAddr], halt := true } := by
  rw [← controlTransfer_out]
  rfl

theorem exec_ovrGoLower (cnt : Count) (st : ParserState) (s : State) :
    exec (.ovrGoLower cnt st) s = .next (controlTransfer s) := rfl

theorem exec_ovrGoUpper (cnt : Count) (st : ParserState) (s : State) :
    exec (.ovrGoUpper cnt st) s = .next (controlTransfer s) := rfl

/-- Settles O16: both overrides are the one control transfer, and their words carry their bytes unchanged. -/
theorem goAcknowledgesBranchesAndHalts : Obligations.GoAcknowledgesBranchesAndHalts := by
  intro cnt st s
  rw [exec_ovrGoLower, exec_ovrGoUpper, controlTransfer_eq]
  exact ⟨rfl, rfl, byteOf_packD cnt st 0x67, byteOf_packD cnt st 0x47⟩

end Sys2Proof.Machine
end

section
/-! ## The decode word round trip and the opcode table (R71, R74, R75, R78) -/

namespace Sys2Proof

/-! ### Byte classes -/

theorem classify_colon (c : Byte) : classify c = .colon ↔ c = chColon := by
  unfold classify
  split_ifs <;> simp_all

theorem classify_cr (c : Byte) : classify c = .cr ↔ c = chCr := by
  unfold classify
  split_ifs <;> simp_all

theorem classify_lf (c : Byte) : classify c = .lf ↔ c = chLf := by
  unfold classify
  split_ifs <;> simp_all

theorem classify_digit (c : Byte) :
    classify c = .digit ↔ c ≠ chColon ∧ c ≠ chCr ∧ c ≠ chLf ∧ c ≠ chGoLower ∧ c ≠ chGoUpper := by
  unfold classify
  split_ifs <;> simp_all
  tauto

/-- Settles O2: each class is its branch of `classify`, and the digit bytes are counted. -/
theorem byteClassesPartition : Obligations.ByteClassesPartition :=
  ⟨fun c => ⟨classify_colon c, classify_cr c, classify_lf c, classify_go c, classify_digit c⟩, by decide +kernel⟩

/-! ### Encode, then decode -/

/-- The row of `DATA_WORD` is the word of `CNT` = 7 in `DATA`. -/
theorem encode_dataWord (c : Byte) : encode (.dataWord c) = packD 7 .data c := rfl

/-- The decode word of a digit operation is its `CNT`, the code of its state and its byte. -/
theorem encode_decodeDigit (cnt : Count) (st : ParserState) (c : Byte) :
    encode (decodeDigit cnt st c) = packD cnt st c := by
  cases st with
  | data =>
    simp only [decodeDigit]
    split
    · next h => rw [encode_dataWord, h]
    · rfl
  | idle | byteCount | address | recType1 | recType2 | segField | segFinal => rfl

theorem decodeDigit_wf (cnt : Count) (st : ParserState) (c : Byte) (h : classify c = .digit) :
    (decodeDigit cnt st c).wf = true := by
  cases st with
  | data =>
    simp only [decodeDigit]
    split <;> simp_all [Instr.wf]
  | idle | byteCount | address | recType1 | recType2 | segField | segFinal => simp [decodeDigit, Instr.wf, h]

/-- A digit byte packed for a state decodes to that state's operation. -/
theorem decode_packD_digit (cnt : Count) (st : ParserState) (c : Byte) (h : classify c = .digit) :
    decode (packD cnt st c) = decodeDigit cnt st c := (decode_packD cnt st c).trans (decodeParts_digit cnt st c h)

/-- Settles O7: an override's word has its own byte, a digit operation's word the position that selects it; `DATA` is
split by `CNT` = 7, which well-formedness keeps out of `DATA_DIGIT`. -/
theorem decodeOfEncode : Obligations.DecodeOfEncode := by
  intro i hwf
  cases i with
  | ovrColon cnt st => exact (decode_packD cnt st _).trans (decodeParts_colon cnt st _ rfl)
  | ovrCr cnt st => exact (decode_packD cnt st _).trans (decodeParts_cr cnt st _ rfl)
  | ovrLf cnt st => exact (decode_packD cnt st _).trans (decodeParts_lf cnt st _ rfl)
  | ovrGoLower cnt st => exact (decode_packD cnt st _).trans (decodeParts_go cnt st _ rfl)
  | ovrGoUpper cnt st => exact (decode_packD cnt st _).trans (decodeParts_go cnt st _ rfl)
  | dataWord c => exact decode_packD_digit 7 .data c (of_decide_eq_true hwf)
  | idleSkip cnt c => exact decode_packD_digit cnt .idle c (of_decide_eq_true hwf)
  | bcDigit cnt c => exact decode_packD_digit cnt .byteCount c (of_decide_eq_true hwf)
  | addrDigit cnt c => exact decode_packD_digit cnt .address c (of_decide_eq_true hwf)
  | rt1Digit cnt c => exact decode_packD_digit cnt .recType1 c (of_decide_eq_true hwf)
  | rt2Dispatch cnt c => exact decode_packD_digit cnt .recType2 c (of_decide_eq_true hwf)
  | segDigit cnt c => exact decode_packD_digit cnt .segField c (of_decide_eq_true hwf)
  | segFinal cnt c => exact decode_packD_digit cnt .segFinal c (of_decide_eq_true hwf)
  | dataDigit cnt c =>
    obtain ⟨hc, hcnt⟩ : classify c = .digit ∧ cnt ≠ 7 := by simpa [Instr.wf] using hwf
    exact (decode_packD_digit cnt .data c hc).trans (if_neg hcnt)

/-! ### Decode, then encode -/

theorem decodeParts_wf (cnt : Count) (st : ParserState) (c : Byte) : (decodeParts cnt st c).wf = true := by
  cases hc : classify c with
  | colon => rw [decodeParts_colon _ _ _ hc]; rfl
  | cr => rw [decodeParts_cr _ _ _ hc]; rfl
  | lf => rw [decodeParts_lf _ _ _ hc]; rfl
  | go => rw [decodeParts_go _ _ _ hc]; split <;> rfl
  | digit => rw [decodeParts_digit _ _ _ hc]; exact decodeDigit_wf cnt st c hc

/-- The class of an override byte gives back the byte. -/
theorem encode_decodeParts (cnt : Count) (st : ParserState) (c : Byte) :
    encode (decodeParts cnt st c) = packD cnt st c := by
  cases hc : classify c with
  | colon => rw [decodeParts_colon _ _ _ hc, (classify_colon c).mp hc]; rfl
  | cr => rw [decodeParts_cr _ _ _ hc, (classify_cr c).mp hc]; rfl
  | lf => rw [decodeParts_lf _ _ _ hc, (classify_lf c).mp hc]; rfl
  | go =>
    rw [decodeParts_go _ _ _ hc]
    rcases (classify_go c).mp hc with rfl | rfl <;> rfl
  | digit => rw [decodeParts_digit _ _ _ hc, encode_decodeDigit]

/-- Settles O8: the operation selected by the three fields of `d` is encoded as those fields packed, which are `d`. -/
theorem encodeOfDecode : Obligations.EncodeOfDecode :=
  fun d => ⟨decodeParts_wf _ _ _, (encode_decodeParts _ _ _).trans (packD_fields d)⟩

/-- Settles O9: the seven words are closed terms. -/
theorem wordsDecodeAsTheEncodingsSay : Obligations.WordsDecodeAsTheEncodingsSay := by
  unfold Obligations.WordsDecodeAsTheEncodingsSay
  decide

/-! ### The opcode table -/

/-- The five rows that name an override byte. -/
def overrideRows : List OpcodeRow := opcodeRows.take 5

/-- The row that names `CNT` = 7 and `DATA`. -/
def dataWordRow : OpcodeRow := ⟨1, 0x3F00, 0x3F00, fun d => .dataWord (byteOf d)⟩

/-- The eight rows that name a state. -/
def stateRows : List OpcodeRow := opcodeRows.drop 6

theorem opcodeRows_split : opcodeRows = overrideRows ++ [dataWordRow] ++ stateRows := rfl

/-- A row that masks the byte alone matches by the byte. -/
theorem rowMatches_byte (cnt : Count) (st : ParserState) (c : Byte) (r : OpcodeRow) (hm : r.mask = 0x00FF#14) :
    rowMatches (packD cnt st c) r = decide (c.setWidth 14 = r.pattern) := by
  rw [rowMatches, hm, packD, Laws.RowMatch.low_byte]

/-- The row of `DATA_WORD` masks the six bits of `CNT` and `ST`. -/
theorem rowMatches_dataWordRow (cnt : Count) (st : ParserState) (c : Byte) :
    rowMatches (packD cnt st c) dataWordRow = decide (cnt = 7 ∧ st = .data) := by
  rw [rowMatches, show dataWordRow.mask = 0x3F00#14 from rfl, packD, Laws.RowMatch.high_bits]
  cases st <;> revert cnt <;> decide

/-- A row that masks the state alone matches by the state's code. -/
theorem rowMatches_state (cnt : Count) (st : ParserState) (c : Byte) (r : OpcodeRow) (hm : r.mask = 0x0700#14) :
    rowMatches (packD cnt st c) r = decide ((stCode st).setWidth 14 <<< 8 = r.pattern) := by
  rw [rowMatches, hm, packD, Laws.RowMatch.middle_bits]

/-- No override row matches a digit byte. -/
theorem filter_overrideRows_digit (cnt : Count) (st : ParserState) (c : Byte) (h : classify c = .digit) :
    overrideRows.filter (rowMatches (packD cnt st c)) = [] := by
  have hne (k : Byte) (hk : c ≠ k) : c.setWidth 14 ≠ k.setWidth 14 :=
    fun he => hk (by simpa using congrArg (BitVec.setWidth 8) he)
  obtain ⟨h1, h2, h3, h4, h5⟩ := (classify_digit c).mp h
  simpa [overrideRows, opcodeRows, rowMatches_byte] using ⟨hne _ h1, hne _ h2, hne _ h3, hne _ h4, hne _ h5⟩

/-- One override row matches an override byte, and it builds what the decoder answers. -/
theorem filter_overrideRows_override (cnt : Count) (st : ParserState) (c : Byte) (h : classify c ≠ .digit) :
    ∃ r : OpcodeRow, overrideRows.filter (rowMatches (packD cnt st c)) = [r] ∧ r.priority = 0 ∧
      r.build (packD cnt st c) = decodeParts cnt st c := by
  have hc : c = chColon ∨ c = chCr ∨ c = chLf ∨ c = chGoLower ∨ c = chGoUpper := by
    by_contra hno
    exact h ((classify_digit c).mpr (by tauto))
  rcases hc with rfl | rfl | rfl | rfl | rfl <;>
    simp [overrideRows, opcodeRows, rowMatches_byte, List.filter, decodeParts, classify]

/-- One state row matches, and it builds the operation of that state, but for a word's eighth digit. -/
theorem filter_stateRows (cnt : Count) (st : ParserState) (c : Byte) :
    ∃ r : OpcodeRow, stateRows.filter (rowMatches (packD cnt st c)) = [r] ∧ r.priority = 2 ∧
      (¬ (cnt = 7 ∧ st = .data) → r.build (packD cnt st c) = decodeDigit cnt st c) := by
  cases st <;> simp +contextual [stateRows, opcodeRows, rowMatches_state, stCode, decodeDigit, List.filter]

/-- Settles O5: at most one row of each priority matches, so the winning row is the override row of an override byte,
else the row of `DATA_WORD` where it matches, else the row of the state. -/
theorem decodeIsTheOpcodeTable : Obligations.DecodeIsTheOpcodeTable := by
  intro d
  rw [← packD_fields d]
  generalize cntOf d = cnt, stOf d = st, byteOf d = c
  rw [decode_packD, tableDecode, winningRow, opcodeRows_split, List.filter_append, List.filter_append]
  have hword : [dataWordRow].filter (rowMatches (packD cnt st c)) =
      if cnt = 7 ∧ st = .data then [dataWordRow] else [] := by
    simp [List.filter_singleton, rowMatches_dataWordRow]
  obtain ⟨q, hq, hq2, hqb⟩ := filter_stateRows cnt st c
  have hd : dataWordRow.priority = 1 := rfl
  rw [hword, hq]
  by_cases hc : classify c = .digit
  · rw [filter_overrideRows_digit _ _ _ hc, decodeParts_digit _ _ _ hc]
    by_cases h7 : cnt = 7 ∧ st = .data
    · rw [if_pos h7]
      obtain ⟨rfl, rfl⟩ := h7
      simp [betterRow, hq2, dataWordRow, decodeDigit]
    · rw [if_neg h7]
      simp [betterRow, hqb h7]
  · obtain ⟨r, hr, hr0, hrb⟩ := filter_overrideRows_override cnt st c hc
    rw [hr]
    split <;> simp [betterRow, hq2, hd, hr0, hrb]

end Sys2Proof

namespace Sys2Proof.Machine

/-! ### The nibble decoder -/

/-- Settles O3: the subtraction of 7 does not borrow above `'9'`, and `setWidth 4` is the remainder by 16. -/
theorem foldSubtractsSevenAboveNine : Obligations.FoldSubtractsSevenAboveNine := by
  intro c
  have hlt : (0x39 : Byte) < c ↔ 0x39 < c.toNat := BitVec.lt_def
  simp only [fold, hlt]
  split
  · next h =>
    have hsub : (c - 7).toNat = c.toNat - 7 :=
      BitVec.toNat_sub_of_le (BitVec.le_def.mpr (show 7 ≤ c.toNat by omega))
    rw [BitVec.toNat_setWidth, hsub]
  · rw [BitVec.toNat_setWidth]

/-- Settles O4: sixteen values in two letter cases. -/
theorem foldReadsHexDigits : Obligations.FoldReadsHexDigits := by
  unfold Obligations.FoldReadsHexDigits
  decide

end Sys2Proof.Machine
end

section
/-! ## The step: halting, waiting, taking a byte (R72, R73, R79, R82, R206) -/

namespace Sys2Proof.Machine

/-- Settles O11: the `HALT` gate. -/
theorem haltedBlockTakesNoStep : Obligations.HaltedBlockTakesNoStep := step_halted

/-- Settles O10: the step decodes the packed position and byte, and what it decodes is well-formed. -/
theorem stepRunsTheDecodedOperation : Obligations.StepRunsTheDecodedOperation := by
  rintro s c rest i hh hi rfl
  rw [decode_packD]
  exact ⟨decodeParts_wf _ _ _, step_byte s c rest hh hi⟩

/-- A state that steps to itself stays, for any number of steps. -/
theorem runSteps_of_step_self (k : Nat) (s : State) (h : step s = .next s) : runSteps k s = .next s := by
  induction k with
  | zero => rfl
  | succ k ih => rw [runSteps_succ k s s h, ih]

theorem runSteps_halted (k : Nat) (s : State) (h : s.halt = true) : runSteps k s = .next s :=
  runSteps_of_step_self k s (step_halted s h)

/-- Settles O12: bytes delivered to a halted block stay at IN, and every step is the `HALT` gate. -/
theorem haltedBlockNeverRunsAgain : Obligations.HaltedBlockNeverRunsAgain :=
  fun s bytes k h => runSteps_halted k (State.deliver bytes s) h

/-- Settles O13: with no byte the step is `awaitByte`, and a delivered byte is the oldest one at IN. -/
theorem noByteMeansWaiting : Obligations.NoByteMeansWaiting := by
  intro s hh hi
  have hstep := step_no_byte s hh hi
  refine ⟨fun hf k => runSteps_of_step_self k s (by simp [hstep, awaitByte, hf]), fun c => ?_,
    fun hf => by simp [hstep, awaitByte, hf]⟩
  have hin : (State.deliver [c] s).input = c :: s.input := by simp [hi]
  rw [step_byte (State.deliver [c] s) c s.input hh hin, decode_packD]
  rfl

/-- Settles O14: a byte at IN always has an effect, so only a failed source with no byte left stops the step. -/
theorem noByteIsIllegal : Obligations.NoByteIsIllegal := by
  intro s
  cases hh : s.halt with
  | true => exact .inl ⟨s, step_halted s hh⟩
  | false =>
    cases hi : s.input with
    | cons c rest =>
      obtain ⟨t, ht, -⟩ := step_effect s c rest hh hi
      exact .inl ⟨t, ht⟩
    | nil =>
      rw [step_no_byte s hh hi, awaitByte]
      cases hf : s.sourceFailed with
      | true => exact .inr ⟨rfl, rfl, rfl, rfl⟩
      | false => exact .inl ⟨s, rfl⟩

/-! ### The effect of a byte is the step's answer -/

/-- A digit operation, given by its equation over the shared frame, on a byte that the policy drops. -/
theorem exec_ignored {i : Instr} {c : Byte} {s : State} {op : Nibble → State → State}
    (hop : exec i s = digitStep c op s) (h : digitIgnored s.params c = true) : exec i s = .next s :=
  hop.trans (digitStep_ignored c op s h)

theorem exec_decodeDigit_ignored (cnt : Count) (st : ParserState) (c : Byte) (s : State)
    (h : digitIgnored s.params c = true) : exec (decodeDigit cnt st c) s = .next s := by
  cases st with
  | idle => rfl
  | byteCount => exact exec_ignored (exec_bcDigit cnt c s) h
  | address => exact exec_ignored (exec_addrDigit cnt c s) h
  | recType1 => exact exec_ignored (exec_rt1Digit cnt c s) h
  | recType2 => exact exec_ignored (exec_rt2Dispatch cnt c s) h
  | segField => exact exec_ignored (exec_segDigit cnt c s) h
  | segFinal => exact exec_ignored (exec_segFinal cnt c s) h
  | data =>
    simp only [decodeDigit]
    split
    · exact exec_ignored (exec_dataWord c s) h
    · exact exec_ignored (exec_dataDigit cnt c s) h

/-- Settles O26: a byte that is no hex digit is dropped, and `IDLE_SKIP` has no effect anyway. -/
theorem ignorePolicyDropsNonhexBytes : Obligations.IgnorePolicyDropsNonhexBytes := by
  intro cnt c s hp hx
  have h : digitIgnored s.params c = true := by simp [digitIgnored, hp, hx]
  exact ⟨rfl, exec_ignored (exec_bcDigit cnt c s) h, exec_ignored (exec_addrDigit cnt c s) h,
    exec_ignored (exec_rt1Digit cnt c s) h, exec_ignored (exec_rt2Dispatch cnt c s) h,
    exec_ignored (exec_segDigit cnt c s) h, exec_ignored (exec_segFinal cnt c s) h,
    exec_ignored (exec_dataDigit cnt c s) h, exec_ignored (exec_dataWord c s) h⟩

/-- Settles O27: a byte is dropped only under IGNORE and only where it is no hex digit. -/
theorem foldPolicyTakesEveryDigitByte : Obligations.FoldPolicyTakesEveryDigitByte :=
  fun p c h => ⟨fun hp => ⟨h, by simp [digitIgnored, hp]⟩, fun hx => ⟨h, by simp [digitIgnored, hx]⟩⟩

theorem dispatchType_data (s : State) (h : s.rt = 0x00) : dispatchType s = goTo .data s := if_pos h

theorem dispatchType_eof (s : State) (h : s.rt = 0x01) :
    dispatchType s = goTo .idle (emit (.checksumReport s.chk) s) := by
  rw [dispatchType, h]
  rfl

theorem dispatchType_segment (s : State) (h : s.rt = 0x02) : dispatchType s = goTo .segField s := by
  rw [dispatchType, h]
  rfl

theorem dispatchType_other (s : State) (h : s.rt ≠ 0x00 ∧ s.rt ≠ 0x01 ∧ s.rt ≠ 0x02) :
    dispatchType s = goTo .idle s := by
  obtain ⟨h0, h1, h2⟩ := h
  rw [dispatchType, if_neg h0, if_neg h1, if_neg h2]

/-- A digit that is taken runs the update `op` of its state's operation. -/
theorem exec_taken {c : Byte} {s t : State} {st : ParserState} {op : Nibble → State → State}
    (h : TakenAsDigit s.params c) (hst : s.st = st) (hop : exec (decodeDigit s.cnt st c) s = digitStep c op s)
    (ht : op (fold c) s = t) : exec (decodeParts s.cnt s.st c) s = .next t := by
  obtain ⟨hc, hi⟩ := h
  rw [decodeParts_digit _ _ _ hc, hst, hop, digitStep_taken _ _ _ hi, ht]

/-- `exec_effect` read backwards: an effect that `ByteEffect` lists is the one the operation answers. -/
theorem ByteEffect.exec_eq {c : Byte} {s t : State} (he : ByteEffect c s t) :
    exec (decodeParts s.cnt s.st c) s = .next t := by
  cases he with
  | colon h => rw [decodeParts_colon _ _ _ h]; rfl
  | lineEnd h =>
    rcases h with h | h
    · rw [decodeParts_cr _ _ _ h]; rfl
    · rw [decodeParts_lf _ _ _ h]; rfl
  | go h => rw [decodeParts_go _ _ _ h]; split <;> rfl
  | ignored h hi => rw [decodeParts_digit _ _ _ h]; exact exec_decodeDigit_ignored _ _ c s hi
  | idle h hst => rw [decodeParts_digit _ _ _ h, hst]; rfl
  | byteCountLast h hst hc => exact exec_taken h hst (exec_bcDigit _ c s) (nextDigit_last _ _ _ hc)
  | byteCountMore h hst hc => exact exec_taken h hst (exec_bcDigit _ c s) (nextDigit_more _ _ _ hc)
  | addressLast h hst hc => exact exec_taken h hst (exec_addrDigit _ c s) (nextDigit_last _ _ _ hc)
  | addressMore h hst hc => exact exec_taken h hst (exec_addrDigit _ c s) (nextDigit_more _ _ _ hc)
  | recType1 h hst => exact exec_taken h hst (exec_rt1Digit _ c s) rfl
  | typeData h hst hr => exact exec_taken h hst (exec_rt2Dispatch _ c s) (dispatchType_data _ hr)
  | typeEof h hst hr => exact exec_taken h hst (exec_rt2Dispatch _ c s) (dispatchType_eof _ hr)
  | typeSegment h hst hr => exact exec_taken h hst (exec_rt2Dispatch _ c s) (dispatchType_segment _ hr)
  | typeOther h hst hr => exact exec_taken h hst (exec_rt2Dispatch _ c s) (dispatchType_other _ hr)
  | segFieldLast h hst hc => exact exec_taken h hst (exec_segDigit _ c s) (nextDigit_last _ _ _ hc)
  | segFieldMore h hst hc => exact exec_taken h hst (exec_segDigit _ c s) (nextDigit_more _ _ _ hc)
  | segFinal h hst => exact exec_taken h hst (exec_segFinal _ c s) rfl
  | dataDigit h hst hc =>
    exact exec_taken h hst ((congrArg (exec · s) (if_neg hc)).trans (exec_dataDigit _ c s)) rfl
  | dataWord h hst hc =>
    exact exec_taken h hst ((congrArg (exec · s) (if_pos hc)).trans (exec_dataWord c s)) rfl

/-- A byte at IN whose effect is known: the step's answer. -/
theorem step_of_effect {s t : State} {c : Byte} {rest : List Byte} (hh : s.halt = false) (hi : s.input = c :: rest)
    (he : ByteEffect c { s with input := rest } t) : step s = .next t :=
  (step_byte s c rest hh hi).trans he.exec_eq

end Sys2Proof.Machine
end

section
/-! ## One operation, its whole next state (R102 to R111, R140, R141, R170 to R172) -/

namespace Sys2Proof.Machine

/-- Settles O15: the three overrides abandon the record, and their words carry their bytes unchanged. -/
theorem recordOverridesAbandonTheRecord : Obligations.RecordOverridesAbandonTheRecord :=
  fun cnt st _ => ⟨rfl, rfl, rfl, byteOf_packD cnt st 0x3A, byteOf_packD cnt st 0x0D, byteOf_packD cnt st 0x0A⟩

/-- Settles O19: the digit is appended to `ADDR` and counted. -/
theorem addressDigit : Obligations.AddressDigit := by
  intro cnt c s h
  rw [exec_addrDigit, digitStep_taken _ _ _ h, nextDigit_eq]
  rfl

/-- Settles O21: the digit is appended to `RT`, and the type dispatch reads the new `RT`. -/
theorem secondTypeDigitDispatches : Obligations.SecondTypeDigitDispatches := by
  rintro cnt c s r h rfl
  rw [exec_rt2Dispatch, digitStep_taken _ _ _ h]
  exact ⟨fun h => congrArg _ (dispatchType_data _ h), fun h => congrArg _ (dispatchType_eof _ h),
    fun h => congrArg _ (dispatchType_segment _ h), fun h0 h1 h2 => congrArg _ (dispatchType_other _ ⟨h0, h1, h2⟩)⟩

/-- Settles O22: the digit is appended to `SEG` and counted. -/
theorem segmentDigit : Obligations.SegmentDigit := by
  intro cnt c s h
  rw [exec_segDigit, digitStep_taken _ _ _ h, nextDigit_eq]
  rfl

/-- Settles O23: `SEG_FINAL` does not use the digit it takes. -/
theorem segmentFinalShifts : Obligations.SegmentFinalShifts :=
  fun cnt c s h => (exec_segFinal cnt c s).trans (digitStep_taken _ _ _ h)

/-- Settles O24: the digit is appended to `ACC` and counted. -/
theorem dataDigitAccumulates : Obligations.DataDigitAccumulates :=
  fun cnt c s h => (exec_dataDigit cnt c s).trans (digitStep_taken _ _ _ h)

theorem exec_dataWord_taken (c : Byte) (s : State) (h : digitIgnored s.params c = false) :
    exec (.dataWord c) s = .next (finishWord (bswap32 (appendAcc s.acc (fold c))) s) :=
  (exec_dataWord c s).trans (digitStep_taken _ _ _ h)

/-- Settles O25: the eighth digit finishes the word. -/
theorem dataWordWritesAddsAdvances : Obligations.DataWordWritesAddsAdvances := by
  rintro c s v h rfl
  exact ⟨_, exec_dataWord_taken c s h, rfl, rfl, rfl, rfl, rfl, rfl, rfl, rfl, rfl, rfl, rfl, rfl, rfl⟩

end Sys2Proof.Machine
end

section
/-! ## What a step stores and what it emits (R32, R51, R143, R201, R203, R209)

Two inversions of `ByteEffect`: the eighth data digit is the only effect on memory, faults, `CHK` and the writes, and
the control transfer is the only one on `HALT`. -/

namespace Sys2Proof.Machine

/-! ### The eighth digit is the only word write -/

/-- From `s` to `t` no byte is stored, no fault recorded, no write emitted and nothing added into `CHK`. -/
structure StoresNothing (s t : State) : Prop where
  mem : t.mem = s.mem
  faults : t.faults = s.faults
  chk : t.chk = s.chk
  writes : writesOf t.out = writesOf s.out

theorem ByteEffect.stores {c : Byte} {s t : State} (he : ByteEffect c s t) :
    StoresNothing s t ∨ TakenAsDigit s.params c ∧ s.st = .data ∧ s.cnt = 7 ∧
      t = finishWord (bswap32 (appendAcc s.acc (fold c))) s := by
  cases he with
  | dataWord h hst hc => exact .inr ⟨h, hst, hc, rfl⟩
  | go => exact .inl ⟨rfl, rfl, rfl, by simp [writesOf]⟩
  | typeEof => exact .inl ⟨rfl, rfl, rfl, by simp [writesOf]⟩
  | colon | lineEnd | ignored | idle | byteCountLast | byteCountMore | addressLast | addressMore | recType1
  | typeData | typeSegment | typeOther | segFieldLast | segFieldMore | segFinal | dataDigit =>
    exact .inl ⟨rfl, rfl, rfl, rfl⟩

/-- What a step can do to the store: nothing, or the one word write of `DATA_WORD`. -/
theorem step_stores {s t : State} (h : step s = .next t) :
    StoresNothing s t ∨ ∃ (c : Byte) (rest : List Byte), s.halt = false ∧ s.input = c :: rest ∧
      TakenAsDigit s.params c ∧ s.st = .data ∧ s.cnt = 7 ∧
      t = finishWord (bswap32 (appendAcc s.acc (fold c))) { s with input := rest } := by
  rcases step_cases s t h with rfl | ⟨c, rest, hh, hi, he⟩
  · exact .inl ⟨rfl, rfl, rfl, rfl⟩
  · rcases he.stores with hs | ⟨htaken, hst, hc, ht⟩
    · exact .inl ⟨hs.mem, hs.faults, hs.chk, hs.writes⟩
    · exact .inr ⟨c, rest, hh, hi, htaken, hst, hc, ht⟩

/-- Settles O45: a word write keeps the canonical form, honoured or not. -/
theorem stepKeepsMemoryCanonical : Obligations.StepKeepsMemoryCanonical := by
  intro s t hs h
  rcases step_stores h with hq | ⟨c, rest, -, -, -, -, -, rfl⟩
  · rwa [MemCanonical, hq.mem]
  · exact memWrite_mem_wf s.addr _ { s with input := rest } hs

/-- Settles O49: finishing a word adds its address and value into `CHK` and appends that write. -/
theorem stepKeepsChkTheSumOfWrites : Obligations.StepKeepsChkTheSumOfWrites := by
  intro s t hs h
  rw [ChkIsSum] at hs ⊢
  rcases step_stores h with hq | ⟨c, rest, -, -, -, -, -, rfl⟩
  · rw [hq.chk, hs, checksumOf, checksumOf, hq.writes]
  · simp [hs, checksumOf, writesOf, add_assoc]

/-- Settles O50: where no fault is recorded after a word write there was none before and the write meets none, so its
four bytes are stored over the image of the earlier writes. -/
theorem stepKeepsMemoryTheImageOfWrites : Obligations.StepKeepsMemoryTheImageOfWrites := by
  intro s t hs h hnf
  rcases step_stores h with hq | ⟨c, rest, -, -, -, -, -, rfl⟩
  · rw [PlatformFaulted, hq.faults] at hnf
    rw [hq.mem, hs hnf, imageOf, imageOf, hq.writes]
  · rw [PlatformFaulted, finishWord_faults, anyFault_addFaults, Bool.or_eq_true, not_or] at hnf
    obtain ⟨hbefore, hwrite⟩ := hnf
    rw [finishWord_mem, if_neg hwrite, finishWord_out, imageOf_write, ← hs hbefore]

/-- Settles O32: a step that stores nothing emits no write. -/
theorem wordWriteNeedsTheEighthDigit : Obligations.WordWriteNeedsTheEighthDigit := by
  intro s t h hne
  rcases step_stores h with hq | ⟨c, rest, hh, hi, htaken, hst, hc, -⟩
  · exact absurd hq.writes hne
  · exact ⟨hh, hst, hc, c, rest, hi, htaken⟩

/-! ### The control transfer is the only branch -/

/-- The events of one operation: none, one write or one report with `HALT` as it was, or the control transfer. -/
theorem ByteEffect.emits {c : Byte} {s t : State} (he : ByteEffect c s t) :
    (t.halt = s.halt ∧ (t.out = s.out ∨ (∃ v, t.out = s.out ++ [.writeWord s.addr v]) ∨
      t.out = s.out ++ [.checksumReport s.chk])) ∨ (classify c = .go ∧ t = controlTransfer s) := by
  cases he with
  | dataWord => exact .inl ⟨rfl, .inr (.inl ⟨_, rfl⟩)⟩
  | typeEof => exact .inl ⟨rfl, .inr (.inr rfl)⟩
  | go h => exact .inr ⟨h, rfl⟩
  | colon | lineEnd | ignored | idle | byteCountLast | byteCountMore | addressLast | addressMore | recType1
  | typeData | typeSegment | typeOther | segFieldLast | segFieldMore | segFinal | dataDigit =>
    exact .inl ⟨rfl, .inl rfl⟩

theorem ByteEffect.params_eq {c : Byte} {s t : State} (he : ByteEffect c s t) : t.params = s.params := by
  cases he <;> rfl

theorem ByteEffect.input_eq {c : Byte} {s t : State} (he : ByteEffect c s t) : t.input = s.input := by
  cases he <;> rfl

theorem step_params {s t : State} (h : step s = .next t) : t.params = s.params := by
  rcases step_cases s t h with rfl | ⟨c, rest, -, -, he⟩
  · rfl
  · exact he.params_eq

/-- Settles O51: a block that takes a byte is not halted, so its events hold no `Branch`; only the control transfer
appends one, with the `Ack` before it, and sets `HALT`. -/
theorem stepKeepsHaltTheBranch : Obligations.StepKeepsHaltTheBranch := by
  intro s t hs h
  rcases step_cases s t h with rfl | ⟨c, rest, hh, -, he⟩
  · exact hs
  · have hno : s.out.any isBranch = false := by simpa [HaltIsBranch, hh] using hs
    rcases he.emits with ⟨hhalt, hout⟩ | ⟨-, rfl⟩
    · replace hhalt : t.halt = false := hhalt.trans hh
      rw [HaltIsBranch, hhalt, if_neg Bool.false_ne_true]
      rcases hout with hout | ⟨v, hout⟩ | hout <;> rw [hout] <;> simpa [isBranch] using hno
    · exact ⟨s.out, controlTransfer_out _, hno⟩

/-- Settles O35: the events of a byte's effect, and none where no byte is taken. -/
theorem eventsOfOneStep : Obligations.EventsOfOneStep := by
  intro s t h
  rcases step_cases s t h with rfl | ⟨c, rest, -, -, he⟩
  · exact ⟨[], by simp, .inl rfl⟩
  · rcases he.emits with ⟨-, hout | ⟨v, hout⟩ | hout⟩ | ⟨-, rfl⟩
    · exact ⟨[], by simp [hout], .inl rfl⟩
    · exact ⟨_, hout, .inr (.inl ⟨_, v, rfl⟩)⟩
    · exact ⟨_, hout, .inr (.inr (.inl rfl))⟩
    · exact ⟨_, controlTransfer_out _, .inr (.inr (.inr rfl))⟩

/-! ### Recorded faults (R201) -/

/-- Every fault recorded in `f` is recorded in `g`. -/
def FaultsWithin (f g : PlatformFaults) : Prop :=
  (f.invalidWrite = true → g.invalidWrite = true) ∧ (f.misalignedWrite = true → g.misalignedWrite = true) ∧
    (f.loaderOverwrite = true → g.loaderOverwrite = true)

theorem faultsWithin_addFaults (f g : PlatformFaults) : FaultsWithin f (addFaults f g) := by
  simp +contextual [FaultsWithin, addFaults]

theorem step_faultsWithin {s t : State} (h : step s = .next t) : FaultsWithin s.faults t.faults := by
  rcases step_stores h with hq | ⟨c, rest, -, -, -, -, -, rfl⟩
  · rw [hq.faults]
    exact ⟨id, id, id⟩
  · exact faultsWithin_addFaults _ _

theorem step_keeps_platformFaulted (s t : State) (hf : PlatformFaulted s) (h : step s = .next t) :
    PlatformFaulted t := by
  obtain ⟨hi, hm, hl⟩ := step_faultsWithin h
  simp only [PlatformFaulted, anyFault, Bool.or_eq_true] at hf ⊢
  tauto

/-- Settles O37: recording is by OR, so a fault outlives every step and every run. -/
theorem platformFaultsAreNeverCleared : Obligations.PlatformFaultsAreNeverCleared :=
  ⟨fun _ _ h => step_faultsWithin h, fun k s t hf h hc =>
    hc.2 (runSteps_keeps PlatformFaulted step_keeps_platformFaulted k s t hf h)⟩

/-! ### Complete runs from reset (R209) -/

/-- Settles O1: reset is a structure literal. -/
theorem resetClearsEveryRegister : Obligations.ResetClearsEveryRegister :=
  ⟨fun _ => ⟨rfl, rfl, rfl, rfl, rfl, rfl, rfl, rfl, rfl, rfl, Bool.false_ne_true, rfl⟩, rfl⟩

/-- Settles O44: no event, no memory and no fault, `IDLE` with every register 0. -/
theorem invariantsHoldAtReset : Obligations.InvariantsHoldAtReset :=
  fun _ => ⟨wf_nil, rfl, rfl, ⟨Nat.zero_le _, fun h => nomatch h⟩, rfl, fun _ => rfl, rfl⟩

/-- The facts of R209 about the events, memory and `CHK`, of a block with parameters `p`. -/
def RunObserved (p : Params) (s : State) : Prop := HaltIsBranch s ∧ MemIsImage s ∧ ChkIsSum s ∧ s.params = p

theorem step_keeps_runObserved (p : Params) (s t : State) (hs : RunObserved p s) (h : step s = .next t) :
    RunObserved p t := by
  obtain ⟨hb, hm, hc, hp⟩ := hs
  exact ⟨stepKeepsHaltTheBranch s t hb h, stepKeepsMemoryTheImageOfWrites s t hm h,
    stepKeepsChkTheSumOfWrites s t hc h, (step_params h).trans hp⟩

/-- Settles O52: three invariants hold at reset, delivered bytes do not touch them, and every run keeps them. -/
theorem completeRunObservation : Obligations.CompleteRunObservation := by
  intro p bytes k t h hcomplete
  obtain ⟨hhalt, hnf⟩ := hcomplete
  have h0 : RunObserved p (State.deliver bytes (State.resetWith p)) := ⟨rfl, fun _ => rfl, rfl, rfl⟩
  obtain ⟨hb, hm, hc, rfl⟩ := runSteps_keeps _ (step_keeps_runObserved p) k _ t h0 h
  rw [HaltIsBranch, if_pos hhalt] at hb
  exact ⟨hb, hm hnf, hc⟩

end Sys2Proof.Machine
end

section
/-! ## Memory, frames and the transition relation (R51, R52, R112, R142, R201, R222) -/

namespace Sys2Proof.Machine

/-! ### The word converter (R142) -/

/-- The lanes of four joined bytes, the last one lowest. -/
theorem byteLane_join (b3 b2 b1 b0 : Byte) :
    byteLane (b3 ++ b2 ++ b1 ++ b0) 0 = b0 ∧ byteLane (b3 ++ b2 ++ b1 ++ b0) 1 = b1 ∧
      byteLane (b3 ++ b2 ++ b1 ++ b0) 2 = b2 ∧ byteLane (b3 ++ b2 ++ b1 ++ b0) 3 = b3 := by
  have above {w : Nat} (x : BitVec w) (b : Byte) (k : Nat) :
      (x ++ b).extractLsb' (8 * (k + 1)) 8 = x.extractLsb' (8 * k) 8 := BitVec.extractLsb'_append_eq_of_le (by omega)
  have lowest {w : Nat} (x : BitVec w) (b : Byte) : (x ++ b).extractLsb' (8 * 0) 8 = b :=
    BitVec.extractLsb'_append_eq_right
  exact ⟨lowest _ b0, (above _ b0 0).trans (lowest _ b1),
    (above _ b0 1).trans ((above _ b1 0).trans (lowest b3 b2)),
    (above _ b0 2).trans ((above _ b1 1).trans ((above b3 b2 0).trans BitVec.extractLsb'_eq_self))⟩

/-- A word is its four lanes joined. -/
theorem join_byteLane (v : Word) : byteLane v 3 ++ byteLane v 2 ++ byteLane v 1 ++ byteLane v 0 = v := by
  unfold byteLane
  rw [BitVec.extractLsb'_append_extractLsb'_eq_extractLsb' (start₁ := 8 * 2) (by decide),
    BitVec.extractLsb'_append_extractLsb'_eq_extractLsb' (start₁ := 8 * 1) (by decide)]
  exact BitVec.extractLsb'_append_extractLsb' (w := 24) (len := 8)

/-- Byte `k` of the converted word is byte `3 - k` of the word. -/
theorem byteLane_bswap32 (v : Word) (k : Nat) (hk : k < 4) : byteLane (bswap32 v) k = byteLane v (3 - k) := by
  obtain ⟨h0, h1, h2, h3⟩ := byteLane_join (byteLane v 0) (byteLane v 1) (byteLane v 2) (byteLane v 3)
  obtain rfl | rfl | rfl | rfl : k = 0 ∨ k = 1 ∨ k = 2 ∨ k = 3 := by omega
  · exact h0
  · exact h1
  · exact h2
  · exact h3

theorem bswap32_bswap32 (v : Word) : bswap32 (bswap32 v) = v := by
  have lane := byteLane_bswap32 v
  rw [bswap32, lane 0 (by decide), lane 1 (by decide), lane 2 (by decide), lane 3 (by decide)]
  exact join_byteLane v

/-- Settles O28: the converter reverses the lanes, and a stored word reads lane by lane. -/
theorem wordConverterReversesBytes : Obligations.WordConverterReversesBytes :=
  fun v => ⟨byteLane_bswap32 v, bswap32_bswap32 v, fun m a k hk => by
    rw [read_storeWord_lane m a _ k hk, byteLane_bswap32 v k hk]⟩

/-! ### The word write (R52, R201) -/

theorem finishWord_mem_honoured (v : Word) (s : State) (h : anyFault (writeFaults s.params s.addr) = false) :
    (finishWord v s).mem = storeWord s.mem s.addr v := by
  rw [finishWord_mem, h, if_neg Bool.false_ne_true]

theorem addFaults_none (f g : PlatformFaults) (h : anyFault g = false) : addFaults f g = f := by
  simp only [anyFault, Bool.or_eq_false_iff] at h
  obtain ⟨⟨hi, hm⟩, hl⟩ := h
  simp [addFaults, hi, hm, hl]

/-- Settles O29: an honoured write stores its four lanes and records nothing. -/
theorem dataWordStoresFourBytes : Obligations.DataWordStoresFourBytes := by
  rintro c s t v hi rfl hnf h
  cases (exec_dataWord_taken c s hi).symm.trans h
  rw [finishWord_mem_honoured _ s hnf]
  exact ⟨fun k hk => read_storeWord_lane _ _ _ k hk, fun a ha => read_storeWord_other _ _ _ a ha,
    addFaults_none _ _ hnf⟩

theorem inRanges_iff (rs : List AddrRange) (a : Word) :
    inRanges rs a = true ↔ ∃ r ∈ rs, r.first.toNat ≤ a.toNat ∧ a.toNat ≤ r.last.toNat := by
  simp [inRanges, inRange, BitVec.le_def]

theorem isLoaderOverwrite_iff (p : Params) (addr : Word) : isLoaderOverwrite p addr = true ↔
    ∃ r ∈ p.loaderRegion, ∃ k : Nat, k < 4 ∧ r.first.toNat ≤ laneAddr addr k ∧ laneAddr addr k ≤ r.last.toNat := by
  have hlanes : wordLanes addr = (List.range 4).map fun k => addr + BitVec.ofNat 32 k := by
    simp [wordLanes, List.range, List.range.loop]
  simp only [isLoaderOverwrite, hlanes, List.any_eq_true, List.mem_map, List.mem_range, inRanges_iff, laneAddr]
  constructor
  · rintro ⟨_, ⟨k, hk, rfl⟩, r, hr, hin⟩
    exact ⟨r, hr, k, hk, hin⟩
  · rintro ⟨r, hr, k, hk, hin⟩
    exact ⟨_, ⟨k, hk, rfl⟩, r, hr, hin⟩

/-- Settles O30: each fault bit is the old one or the rule of the write. -/
theorem dataWordRecordsPlatformFaults : Obligations.DataWordRecordsPlatformFaults := by
  intro c s hi
  refine ⟨_, exec_dataWord_taken c s hi, ?_, ?_, ?_⟩ <;>
    simp only [finishWord_faults, addFaults, writeFaults, Bool.or_eq_true]
  · rw [isInvalidWrite, Bool.not_eq_true', ← Bool.not_eq_true, inRanges_iff]
  · rw [isMisalignedWrite, Bool.and_eq_true, decide_eq_true_iff, decide_eq_true_iff]
  · rw [isLoaderOverwrite_iff]

/-! ### The frame of an operation -/

/-- From `s` to `t` the parameters and the input port are not written. -/
structure KeepsInput (s t : State) : Prop where
  params : t.params = s.params
  input : t.input = s.input
  sourceFailed : t.sourceFailed = s.sourceFailed

/-- From `s` to `t` nothing outside the block's registers is written, but for events that are no writes. -/
structure Quiet (s t : State) : Prop extends KeepsInput s t, StoresNothing s t

theorem Quiet.refl (s : State) : Quiet s s := ⟨⟨rfl, rfl, rfl⟩, ⟨rfl, rfl, rfl, rfl⟩⟩

/-- A digit operation, given by its equation over the shared frame, keeps what its update keeps. -/
theorem exec_digit_keeps {P : State → Prop} {i : Instr} {c : Byte} {op : Nibble → State → State} {s t : State}
    (h : exec i s = .next t) (hop : exec i s = digitStep c op s) (hs : P s) (hupd : P (op (fold c) s)) : P t := by
  cases h.symm.trans hop
  split
  · exact hs
  · exact hupd

theorem Quiet.nextDigit {s u : State} (last : Count) (st : ParserState) (h : Quiet s u) :
    Quiet s (nextDigit last st u) := by
  obtain ⟨⟨hp, hi, hf⟩, ⟨hm, hfa, hc, hw⟩⟩ := h
  rw [nextDigit_eq]
  exact ⟨⟨hp, hi, hf⟩, ⟨hm, hfa, hc, hw⟩⟩

theorem Quiet.dispatchType {s u : State} (h : Quiet s u) : Quiet s (dispatchType u) := by
  obtain ⟨⟨hp, hi, hf⟩, ⟨hm, hfa, hc, hw⟩⟩ := h
  rcases dispatchType_cases u with ⟨-, he⟩ | ⟨-, he⟩ | ⟨-, he⟩ | ⟨-, he⟩ <;> rw [he] <;>
    exact ⟨⟨hp, hi, hf⟩, ⟨hm, hfa, hc, by simpa [writesOf] using hw⟩⟩

/-- No operation but `DATA_WORD` writes outside the registers. -/
theorem exec_quiet {i : Instr} {s t : State} (hno : ∀ c, i ≠ .dataWord c) (h : exec i s = .next t) : Quiet s t := by
  cases i with
  | dataWord c => exact absurd rfl (hno c)
  | ovrColon | ovrCr | ovrLf | idleSkip => cases h; exact ⟨⟨rfl, rfl, rfl⟩, ⟨rfl, rfl, rfl, rfl⟩⟩
  | ovrGoLower | ovrGoUpper => cases h; exact ⟨⟨rfl, rfl, rfl⟩, ⟨rfl, rfl, rfl, by simp [writesOf]⟩⟩
  | bcDigit cnt c =>
    exact exec_digit_keeps h (exec_bcDigit cnt c s) (.refl s)
      (Quiet.nextDigit 1 .address ⟨⟨rfl, rfl, rfl⟩, ⟨rfl, rfl, rfl, rfl⟩⟩)
  | addrDigit cnt c =>
    exact exec_digit_keeps h (exec_addrDigit cnt c s) (.refl s)
      (Quiet.nextDigit 3 .recType1 ⟨⟨rfl, rfl, rfl⟩, ⟨rfl, rfl, rfl, rfl⟩⟩)
  | segDigit cnt c =>
    exact exec_digit_keeps h (exec_segDigit cnt c s) (.refl s)
      (Quiet.nextDigit 3 .segFinal ⟨⟨rfl, rfl, rfl⟩, ⟨rfl, rfl, rfl, rfl⟩⟩)
  | rt2Dispatch cnt c =>
    exact exec_digit_keeps h (exec_rt2Dispatch cnt c s) (.refl s)
      (Quiet.dispatchType ⟨⟨rfl, rfl, rfl⟩, ⟨rfl, rfl, rfl, rfl⟩⟩)
  | rt1Digit cnt c =>
    exact exec_digit_keeps h (exec_rt1Digit cnt c s) (.refl s) ⟨⟨rfl, rfl, rfl⟩, ⟨rfl, rfl, rfl, rfl⟩⟩
  | segFinal cnt c =>
    exact exec_digit_keeps h (exec_segFinal cnt c s) (.refl s) ⟨⟨rfl, rfl, rfl⟩, ⟨rfl, rfl, rfl, rfl⟩⟩
  | dataDigit cnt c =>
    exact exec_digit_keeps h (exec_dataDigit cnt c s) (.refl s) ⟨⟨rfl, rfl, rfl⟩, ⟨rfl, rfl, rfl, rfl⟩⟩

theorem exec_keepsInput {i : Instr} {s t : State} (h : exec i s = .next t) : KeepsInput s t := by
  by_cases hd : ∃ c, i = .dataWord c
  · obtain ⟨c, rfl⟩ := hd
    exact exec_digit_keeps h (exec_dataWord c s) ⟨rfl, rfl, rfl⟩ ⟨rfl, rfl, rfl⟩
  · exact (exec_quiet (not_exists.mp hd) h).toKeepsInput

/-- Settles O31: no operation writes the input port, and every operation but `DATA_WORD` is quiet. -/
theorem onlyDataWordStores : Obligations.OnlyDataWordStores := by
  intro i s t h
  obtain ⟨hp, hi, hf⟩ := exec_keepsInput h
  refine ⟨⟨hp, hi, hf⟩, fun hno => ?_⟩
  have hq := exec_quiet hno h
  exact ⟨fun a => by rw [hq.mem], hq.faults, hq.writes⟩

/-! ### Which states change which register (R32, R222) -/

theorem ByteEffect.bc_changes {c : Byte} {s t : State} (he : ByteEffect c s t) (hne : t.bc ≠ s.bc) :
    s.st = .byteCount := by
  cases he with
  | byteCountLast _ hst | byteCountMore _ hst => exact hst
  | _ => exact absurd rfl hne

theorem ByteEffect.addr_changes {c : Byte} {s t : State} (he : ByteEffect c s t) (hne : t.addr ≠ s.addr) :
    s.st = .address ∨ s.st = .data ∧ s.cnt = 7 := by
  cases he with
  | addressLast _ hst | addressMore _ hst => exact .inl hst
  | dataWord _ hst hc => exact .inr ⟨hst, hc⟩
  | _ => exact absurd rfl hne

theorem ByteEffect.rt_changes {c : Byte} {s t : State} (he : ByteEffect c s t) (hne : t.rt ≠ s.rt) :
    s.st = .recType1 ∨ s.st = .recType2 := by
  cases he with
  | recType1 _ hst => exact .inl hst
  | typeData _ hst | typeEof _ hst | typeSegment _ hst | typeOther _ hst => exact .inr hst
  | _ => exact absurd rfl hne

theorem ByteEffect.seg_changes {c : Byte} {s t : State} (he : ByteEffect c s t) (hne : t.seg ≠ s.seg) :
    s.st = .segField ∨ s.st = .segFinal := by
  cases he with
  | segFieldLast _ hst | segFieldMore _ hst => exact .inl hst
  | segFinal _ hst => exact .inr hst
  | _ => exact absurd rfl hne

theorem ByteEffect.halt_changes {c : Byte} {s t : State} (he : ByteEffect c s t) (hne : t.halt ≠ s.halt) :
    classify c = .go ∧ t.halt = true := by
  rcases he.emits with ⟨hh, -⟩ | ⟨hc, rfl⟩
  · exact absurd hh hne
  · exact ⟨hc, rfl⟩

/-- Settles O33: register by register, over the effects of one byte. -/
theorem registersChangeOnlyInTheirStates : Obligations.RegistersChangeOnlyInTheirStates := by
  intro s t h
  rcases step_cases s t h with rfl | ⟨c, rest, -, hi, he⟩
  · exact ⟨absurd rfl, absurd rfl, absurd rfl, absurd rfl, absurd rfl, absurd rfl, rfl⟩
  · refine ⟨he.bc_changes, he.addr_changes, he.rt_changes, he.seg_changes, fun hne => ?_, fun hne => ?_, he.params_eq⟩
    · rcases he.stores with hq | ⟨-, hst, hc, -⟩
      · exact absurd hq.chk hne
      · exact ⟨hst, hc⟩
    · obtain ⟨hgo, hhalt⟩ := he.halt_changes hne
      exact ⟨hhalt, c, rest, hi, hgo⟩

/-! ### The transition relation (R112) -/

/-- Settles O34: each effect is one row of the relation; the hypotheses that select it rule the other rows out. -/
theorem transitionRelation : Obligations.TransitionRelation := by
  intro s c rest hh hi hpol
  obtain ⟨t, ht, he⟩ := step_effect s c rest hh hi
  cases he with
  | colon h => exact ⟨_, [], ht, by simp, by simp [h]⟩
  | lineEnd h => exact ⟨_, [], ht, by simp, by rcases h with h | h <;> simp [h]⟩
  | go h => exact ⟨_, _, ht, controlTransfer_out _, by simp [h]⟩
  | ignored h hign => exact absurd ((hpol h).symm.trans hign) Bool.false_ne_true
  | typeEof h hst hr => exact ⟨_, [.checksumReport s.chk], ht, rfl, by simp_all [TakenAsDigit]⟩
  | dataWord h hst hc => exact ⟨_, _, ht, rfl, by simp_all [TakenAsDigit, appendAcc]⟩
  | idle | byteCountLast | byteCountMore | addressLast | addressMore | recType1 | typeData | typeSegment | typeOther
  | segFieldLast | segFieldMore | segFinal | dataDigit =>
    exact ⟨_, [], ht, by simp, by simp_all [TakenAsDigit]⟩

end Sys2Proof.Machine
end

section
/-! ## The ranges of `CNT`, `ACC` and `SEG` (R23, R58, R106, R111, R140) -/

namespace Sys2Proof.Machine

/-- `CNT + 1` does not wrap below 7. -/
theorem toNat_count_succ {cnt : Count} (h : cnt.toNat < 7) : (cnt + 1).toNat = cnt.toNat + 1 :=
  BitVec.toNat_add_of_lt (show cnt.toNat + 1 < 8 by omega)

theorem toNat_count_lt {cnt last : Count} (hne : cnt ≠ last) (hle : cnt.toNat ≤ last.toNat) :
    cnt.toNat < last.toNat := lt_of_le_of_ne hle fun h => hne (BitVec.eq_of_toNat_eq h)

theorem toNat_count_lt_seven {cnt : Count} (hne : cnt ≠ 7) : cnt.toNat < 7 :=
  toNat_count_lt hne (Nat.le_of_lt_succ cnt.isLt)

/-- Counting a digit of a field whose last count is not reached stays in the field's range. -/
theorem countUp_le (last cnt : Count) (hne : cnt ≠ last) (hle : cnt.toNat ≤ last.toNat) :
    (cnt + 1).toNat ≤ last.toNat := by
  have hlt := toNat_count_lt hne hle
  have := last.isLt
  rw [toNat_count_succ (by omega)]
  exact hlt

theorem ByteEffect.keeps_cntInRange {c : Byte} {s t : State} (he : ByteEffect c s t) (hs : CntInRange s) :
    CntInRange t := by
  cases he with
  | ignored | idle | go => exact hs
  | byteCountMore _ hst hc | addressMore _ hst hc | segFieldMore _ hst hc | dataDigit _ hst hc =>
    simp only [CntInRange, hst] at hs
    simpa [CntInRange, hst] using countUp_le _ _ hc hs
  | dataWord _ hst => simp [CntInRange, hst]
  | _ => simp [CntInRange]

/-- Settles O46: an effect that goes to another state clears `CNT`, and counting stops at the field's last digit. -/
theorem stepKeepsCntInRange : Obligations.StepKeepsCntInRange := by
  intro s t hs h
  rcases step_cases s t h with rfl | ⟨c, rest, -, -, he⟩
  · exact hs
  · exact he.keeps_cntInRange hs

/-! ### The accumulator -/

/-- A nibble appended to a value of fewer than 28 bits. -/
theorem toNat_appendAcc (acc : Word) (n : Nibble) (h : acc.toNat < 2 ^ 28) :
    (appendAcc acc n).toNat = acc.toNat * 16 + n.toNat := by
  have hn : n.toNat < 2 ^ 4 := n.isLt
  rw [appendAcc, BitVec.toNat_or, BitVec.toNat_shiftLeft, BitVec.toNat_setWidth,
    Nat.mod_eq_of_lt (by omega : n.toNat < 2 ^ 32), Nat.shiftLeft_eq, Nat.mod_eq_of_lt (by omega),
    ← Nat.shiftLeft_eq, ← Nat.shiftLeft_add_eq_or_of_lt hn, Nat.shiftLeft_eq]

theorem appendAcc_lt (acc : Word) (n : Nibble) (cnt : Count) (hc : cnt ≠ 7) (h : acc.toNat < 16 ^ cnt.toNat) :
    (appendAcc acc n).toNat < 16 ^ (cnt + 1).toNat := by
  have hlt := toNat_count_lt_seven hc
  have hacc : acc.toNat < 2 ^ 28 :=
    h.trans_le (show 16 ^ cnt.toNat ≤ 16 ^ 7 from Nat.pow_le_pow_right (by decide) hlt.le)
  have hn := n.isLt
  rw [toNat_appendAcc acc n hacc, toNat_count_succ hlt]
  show _ < 16 ^ (cnt.toNat + 1)
  omega

theorem ByteEffect.keeps_accHoldsDigits {c : Byte} {s t : State} (he : ByteEffect c s t) (hs : AccHoldsDigits s) :
    AccHoldsDigits t := by
  cases he with
  | ignored | idle | go => exact hs
  | colon | lineEnd => simp [AccHoldsDigits]
  | dataDigit _ hst hc =>
    simp only [AccHoldsDigits, hst, if_pos] at hs
    simpa [AccHoldsDigits, hst] using appendAcc_lt s.acc (fold c) s.cnt hc hs
  | dataWord _ hst => simp [AccHoldsDigits, hst]
  | byteCountLast _ hst | byteCountMore _ hst | addressLast _ hst | addressMore _ hst | recType1 _ hst
  | typeData _ hst | typeEof _ hst | typeSegment _ hst | typeOther _ hst
  | segFieldLast _ hst | segFieldMore _ hst | segFinal _ hst => simp_all [AccHoldsDigits]

/-- Settles O47: outside `DATA` no effect but clearing writes `ACC`; in `DATA` each counted digit is one more nibble. -/
theorem stepKeepsAccBelowItsDigits : Obligations.StepKeepsAccBelowItsDigits := by
  intro s t hs h
  rcases step_cases s t h with rfl | ⟨c, rest, -, -, he⟩
  · exact hs
  · exact he.keeps_accHoldsDigits hs

/-! ### The segment -/

theorem appendSeg_le (seg : Word) (n : Nibble) : (appendSeg seg n).toNat ≤ 0xFFFF := by
  rw [appendSeg, BitVec.toNat_and]
  exact Nat.and_le_right

theorem finalSeg_le (seg : Word) (h : seg.toNat ≤ 0xFFFF) : (finalSeg seg).toNat ≤ 0x000FFFF0 := by
  rw [finalSeg, BitVec.toNat_shiftLeft, Nat.shiftLeft_eq, Nat.mod_eq_of_lt (by omega)]
  omega

theorem ByteEffect.keeps_segBounded {c : Byte} {s t : State} (he : ByteEffect c s t) (hs : SegBounded s) :
    SegBounded t := by
  obtain ⟨hle, hfinal⟩ := hs
  cases he with
  | segFieldLast | segFieldMore => exact ⟨(appendSeg_le _ _).trans (by decide), fun _ => appendSeg_le _ _⟩
  | segFinal _ hst => exact ⟨finalSeg_le _ (hfinal hst), fun h => nomatch h⟩
  | ignored | idle | go => exact ⟨hle, hfinal⟩
  | byteCountMore _ hst | addressMore _ hst | dataDigit _ hst | dataWord _ hst =>
    exact ⟨hle, fun h => nomatch hst.symm.trans h⟩
  | _ => exact ⟨hle, fun h => nomatch h⟩

/-- Settles O48: a segment digit keeps 16 bits, and `SEG_FINAL` shifts such a value by 4. -/
theorem stepKeepsSegBounded : Obligations.StepKeepsSegBounded := by
  intro s t hs h
  rcases step_cases s t h with rfl | ⟨c, rest, -, -, he⟩
  · exact hs
  · exact he.keeps_segBounded hs

end Sys2Proof.Machine
end

section
/-! ## The digits of one field, over several steps (R103, R110, R111, R140 to R142)

A digit that is not the last of its field is appended and counted. So a list of such digits is the field's update folded
over the list, and the field's last digit comes on top of that. -/

namespace Sys2Proof.Machine

/-- `op` is what a digit of the field of state `X` does, apart from counting, where the field's last digit comes at
`CNT` = `last`. It reads and writes neither `CNT` nor IN, and keeps what the next digit depends on. -/
structure FieldUpdate (X : ParserState) (last : Count) (op : Nibble → State → State) : Prop where
  halt : ∀ n s, (op n s).halt = s.halt
  st : ∀ n s, (op n s).st = s.st
  params : ∀ n s, (op n s).params = s.params
  comm : ∀ n s k bytes, op n { s with cnt := k, input := bytes } = { op n s with cnt := k, input := bytes }
  more : ∀ {c s}, TakenAsDigit s.params c → s.st = X → s.cnt ≠ last → ByteEffect c s (countDigit (op (fold c) s))

section
variable {X : ParserState} {last : Count} {op : Nibble → State → State}

/-- The update of a field, digit by digit. -/
def foldDigits (op : Nibble → State → State) (digits : List Byte) (s : State) : State :=
  digits.foldl (fun u c => op (fold c) u) s

theorem foldDigits_comm (hop : FieldUpdate X last op) (digits : List Byte) (s : State)
    (k : Count) (bytes : List Byte) : foldDigits op digits { s with cnt := k, input := bytes } =
      { foldDigits op digits s with cnt := k, input := bytes } := by
  induction digits generalizing s with
  | nil => rfl
  | cons c ds ih => exact (congrArg (foldDigits op ds) (hop.comm (fold c) s k bytes)).trans (ih _)

/-- Digits of one field before its last digit: the update folded over them, and their number counted. -/
theorem runSteps_fieldDigits (hop : FieldUpdate X last op)
    (digits rest : List Byte) (s : State) (hh : s.halt = false) (hst : s.st = X) (hi : s.input = digits ++ rest)
    (hd : ∀ c ∈ digits, TakenAsDigit s.params c) (hlen : s.cnt.toNat + digits.length ≤ last.toNat) :
    runSteps digits.length s = .next { foldDigits op digits s with
      cnt := s.cnt + BitVec.ofNat 3 digits.length
      input := rest } := by
  induction digits generalizing s with
  | nil =>
    subst hi
    simp [foldDigits]
  | cons c ds ih =>
    rw [List.length_cons] at hlen ⊢
    have hc : (s.cnt + 1).toNat = s.cnt.toNat + 1 := toNat_count_succ (by have := last.isLt; omega)
    have hne : s.cnt ≠ last := fun h => by rw [h] at hlen; omega
    have hupd : countDigit (op (fold c) { s with input := ds ++ rest }) =
        { op (fold c) s with cnt := s.cnt + 1, input := ds ++ rest } :=
      congrArg countDigit (hop.comm (fold c) s s.cnt (ds ++ rest))
    have hstep := step_of_effect hh hi (hop.more (hd c List.mem_cons_self) hst hne)
    have htaken : ∀ d ∈ ds, TakenAsDigit (op (fold c) s).params d :=
      fun d hmem => (hop.params _ s).symm ▸ hd d (List.mem_cons_of_mem _ hmem)
    rw [runSteps_succ _ _ _ hstep, List.append_eq, hupd, ih { op (fold c) s with cnt := s.cnt + 1, input := ds ++ rest }
      ((hop.halt _ s).trans hh) ((hop.st _ s).trans hst) rfl htaken (by rw [hc]; omega), foldDigits_comm hop]
    have hcount : s.cnt + 1 + BitVec.ofNat 3 ds.length = s.cnt + BitVec.ofNat 3 (ds.length + 1) := by
      rw [Nat.add_comm ds.length, BitVec.ofNat_add, BitVec.add_assoc]
      rfl
    rw [hcount]
    rfl

theorem foldDigits_halt (hop : FieldUpdate X last op) (digits : List Byte) (s : State) :
    (foldDigits op digits s).halt = s.halt := by
  induction digits generalizing s with
  | nil => rfl
  | cons c ds ih => exact (ih (op (fold c) s)).trans (hop.halt _ s)

/-- All digits of one field: the last one's effect comes after the folded updates of the others. -/
theorem runSteps_fullField (hop : FieldUpdate X last op)
    (digits : List Byte) (c : Byte) (rest : List Byte) {s t : State} (hh : s.halt = false) (hst : s.st = X)
    (hi : s.input = digits ++ c :: rest) (hd : ∀ c ∈ digits, TakenAsDigit s.params c)
    (hlen : s.cnt.toNat + digits.length = last.toNat)
    (hlast : ByteEffect c { foldDigits op digits s with cnt := last, input := rest } t) :
    runSteps (digits.length + 1) s = .next t := by
  have hcount : s.cnt + BitVec.ofNat 3 digits.length = last := by
    apply BitVec.eq_of_toNat_eq
    rw [← hlen, BitVec.toNat_add_of_lt (by simp; omega)]
    simp; omega
  have h := runSteps_fieldDigits hop digits (c :: rest) s hh hst hi hd hlen.le
  rw [hcount] at h
  rw [runSteps_add digits.length 1 s _ h]
  exact runSteps_succ 0 _ t (step_of_effect ((foldDigits_halt hop digits s).trans hh) rfl hlast)

end

/-! ### Appended nibbles, bit by bit (R77) -/

theorem getLsbD_mask16 (i : Nat) : (0xFFFF#32).getLsbD i = decide (i < 16) := by
  by_cases h : i < 32
  · revert h; revert i; decide
  · rw [BitVec.getLsbD_of_ge _ i (by omega), decide_eq_false (by omega)]

theorem getLsbD_appendSeg (seg : Word) (n : Nibble) (i : Nat) : (appendSeg seg n).getLsbD i =
    if i < 4 then n.getLsbD i else decide (i < 16) && seg.getLsbD (i - 4) := by
  simp only [appendSeg, BitVec.ofNat_eq_ofNat, BitVec.getLsbD_and, getLsbD_mask16, BitVec.getLsbD_or,
    BitVec.getLsbD_shiftLeft, BitVec.getLsbD_setWidth]
  grind

/-- An address digit is a segment digit with the segment over it. -/
theorem appendAddr_eq (addr seg : Word) (n : Nibble) : appendAddr addr seg n = appendSeg addr n ||| seg := rfl

theorem getLsbD_fieldAddress (n16 : BitVec 16) (seg : Word) (i : Nat) (hi : i < 32) :
    (fieldAddress n16 seg).getLsbD i =
    (n16.getLsbD i || (decide (4 ≤ i ∧ i < 16) && seg.getLsbD (i - 4)) ||
      (decide (8 ≤ i ∧ i < 16) && seg.getLsbD (i - 8)) || (decide (12 ≤ i ∧ i < 16) && seg.getLsbD (i - 12)) ||
      seg.getLsbD i) := by
  simp only [fieldAddress, BitVec.natCast_eq_ofNat, BitVec.ofNat_eq_ofNat, BitVec.getLsbD_or, BitVec.getLsbD_and,
    BitVec.getLsbD_shiftLeft, BitVec.getLsbD_setWidth, getLsbD_mask16]
  grind

/-- Four address digits, whatever the address field held. -/
theorem appendAddr_four (addr seg : Word) (n1 n2 n3 n4 : Nibble) :
    appendAddr (appendAddr (appendAddr (appendAddr addr seg n1) seg n2) seg n3) seg n4 =
      fieldAddress (n1 ++ n2 ++ n3 ++ n4) seg := by
  apply BitVec.eq_of_getLsbD_eq
  intro i hi
  simp only [getLsbD_fieldAddress _ _ i hi, appendAddr_eq, BitVec.getLsbD_or, getLsbD_appendSeg, BitVec.getLsbD_append]
  grind

/-! ### The address field (R103) -/

theorem addrDigit_fieldUpdate : FieldUpdate .address 3 fun n s => setAddr (appendAddr s.addr s.seg n) s :=
  ⟨fun _ _ => rfl, fun _ _ => rfl, fun _ _ => rfl, fun _ _ _ _ => rfl, .addressMore⟩

/-- The four digits of an address field, from its start. -/
theorem runSteps_address_field (s : State) (c1 c2 c3 c4 : Byte) (rest : List Byte) (hh : s.halt = false)
    (hst : s.st = .address) (hcnt : s.cnt = 0) (hi : s.input = c1 :: c2 :: c3 :: c4 :: rest)
    (h1 : TakenAsDigit s.params c1) (h2 : TakenAsDigit s.params c2) (h3 : TakenAsDigit s.params c3)
    (h4 : TakenAsDigit s.params c4) : runSteps 4 s = .next { s with
      addr := fieldAddress (fold c1 ++ fold c2 ++ fold c3 ++ fold c4) s.seg
      st := .recType1
      cnt := 0
      input := rest } := by
  rw [← appendAddr_four s.addr]
  exact runSteps_fullField addrDigit_fieldUpdate [c1, c2, c3] c4 rest hh hst hi (by simp [h1, h2, h3])
    (by simp [hcnt]) (.addressLast h4 hst rfl)

/-- A segment with its low 12 bits clear does not reach the digits' four nibbles but by its own bits. -/
theorem fieldAddress_low12 (n16 : BitVec 16) (seg : Word) (h : ∀ i < 12, seg.getLsbD i = false) :
    fieldAddress n16 seg = n16.setWidth 32 ||| seg := by
  apply BitVec.eq_of_getLsbD_eq
  intro i hi
  rw [getLsbD_fieldAddress _ _ i hi, BitVec.getLsbD_or, BitVec.getLsbD_setWidth]
  grind

theorem getLsbD_low_of_extract {k : Nat} {v : Word} (h : v.extractLsb' 0 k = 0) (i : Nat) (hi : i < k) :
    v.getLsbD i = false := by
  have := congrArg (·.getLsbD i) h
  simpa [hi] using this

/-- Settles O38: the field's four digits shift the old address out. -/
theorem addressFieldFormula : Obligations.AddressFieldFormula := by
  refine ⟨runSteps_address_field, fun n16 seg h => fieldAddress_low12 n16 seg (getLsbD_low_of_extract h),
    fun n16 seg h => ?_, by decide, by decide⟩
  have hlow := getLsbD_low_of_extract h
  have hdisjoint : seg &&& n16.setWidth 32 = 0#32 := by
    apply BitVec.eq_of_getLsbD_eq
    intro i hi
    by_cases h16 : i < 16
    · simp [hlow i h16]
    · simp [BitVec.getLsbD_of_ge n16 i (by omega)]
  rw [fieldAddress_low12 n16 seg fun i hi => hlow i (by omega), BitVec.add_eq_or_of_and_eq_zero _ _ hdisjoint,
    BitVec.or_comm]

end Sys2Proof.Machine
end

section
/-! ## A segment record, a data word, a whole data record, a whole stream (R110, R111, R140 to R144, R175, R225) -/

namespace Sys2Proof.Machine

/-! ### The segment field -/

theorem segDigit_fieldUpdate : FieldUpdate .segField 3 fun n s => setSeg (appendSeg s.seg n) s :=
  ⟨fun _ _ => rfl, fun _ _ => rfl, fun _ _ => rfl, fun _ _ _ _ => rfl, .segFieldMore⟩

/-- `SEG` after some segment digits. -/
def segAfter (digits : List Byte) (seg : Word) : Word := digits.foldl (fun v c => appendSeg v (fold c)) seg

theorem foldDigits_segDigit (digits : List Byte) (s : State) :
    foldDigits (fun n s => setSeg (appendSeg s.seg n) s) digits s = setSeg (segAfter digits s.seg) s := by
  induction digits generalizing s with
  | nil => rfl
  | cons c ds ih => exact ih (setSeg (appendSeg s.seg (fold c)) s)

theorem segAfter_concat (digits : List Byte) (c : Byte) (seg : Word) :
    segAfter (digits ++ [c]) seg = appendSeg (segAfter digits seg) (fold c) := by simp [segAfter]

/-- Four segment digits shift the old segment out. -/
theorem appendSeg_four (seg : Word) (n1 n2 n3 n4 : Nibble) :
    appendSeg (appendSeg (appendSeg (appendSeg seg n1) n2) n3) n4 = (n1 ++ n2 ++ n3 ++ n4).setWidth 32 := by
  apply BitVec.eq_of_getLsbD_eq
  intro i hi
  simp only [getLsbD_appendSeg, BitVec.getLsbD_setWidth, BitVec.getLsbD_append]
  grind

/-- Settles O39: four digits fill `SEG`, and the fifth one shifts it. -/
theorem segmentRecordLoadsSegment : Obligations.SegmentRecordLoadsSegment := by
  intro s c1 c2 c3 c4 c5 rest hh hst hcnt hi h1 h2 h3 h4 h5
  have hfour := runSteps_fullField segDigit_fieldUpdate [c1, c2, c3] c4 (c5 :: rest) hh hst hi (by simp [h1, h2, h3])
    (by simp [hcnt]) (.segFieldLast h4 hst rfl)
  have hfifth := step_of_effect
    (s := goTo .segFinal (setSeg (segAfter [c1, c2, c3, c4] s.seg) { s with input := c5 :: rest })) hh rfl
    (.segFinal h5 rfl)
  rw [← appendSeg_four s.seg]
  exact (runSteps_add 4 1 s _ hfour).trans (runSteps_succ 0 _ _ hfifth)

theorem digitsValue_concat (digits : List Byte) (c : Byte) :
    digitsValue (digits ++ [c]) = (digitsValue digits <<< 4) ||| (fold c).setWidth 32 := by simp [digitsValue]

/-- The mask of an earlier digit is within the mask of the next. -/
theorem appendSeg_mask (v : Word) (n : Nibble) : appendSeg (v &&& 0x0000FFFF) n = appendSeg v n := by
  apply BitVec.eq_of_getLsbD_eq
  intro i hi
  simp only [getLsbD_appendSeg, BitVec.ofNat_eq_ofNat, BitVec.getLsbD_and, getLsbD_mask16]
  by_cases h : i < 16
  · simp [h, show i - 4 < 16 by omega]
  · simp [h]

/-- One digit or more: the old segment and the digits' number, shifted and masked once. -/
theorem segAfter_eq (digits : List Byte) (seg : Word) (hne : digits ≠ []) :
    segAfter digits seg = ((seg <<< (4 * digits.length)) ||| digitsValue digits) &&& 0xFFFF := by
  induction digits using List.reverseRecOn with
  | nil => exact absurd rfl hne
  | append_singleton ds d ih =>
    have hds : appendSeg (segAfter ds seg) (fold d) =
        appendSeg ((seg <<< (4 * ds.length)) ||| digitsValue ds) (fold d) := by
      cases ds with
      | nil => simp [segAfter, digitsValue]
      | cons c cs => rw [ih (List.cons_ne_nil c cs)]; exact appendSeg_mask _ _
    rw [segAfter_concat, hds, digitsValue_concat, appendSeg, BitVec.shiftLeft_or_distrib, BitVec.or_assoc,
      ← BitVec.shiftLeft_add, List.length_append]
    rfl

/-- Up to four digits of a segment record write `SEG`, and besides it the sequencer's position alone. -/
theorem runSteps_segDigits (digits rest : List Byte) (s : State) (hh : s.halt = false) (hst : s.st = .segField)
    (hcnt : s.cnt = 0) (hi : s.input = digits ++ rest) (hlen : digits.length ≤ 4)
    (hd : ∀ c ∈ digits, TakenAsDigit s.params c) : ∃ (st : ParserState) (cnt : Count), runSteps digits.length s =
      .next { s with seg := segAfter digits s.seg, st := st, cnt := cnt, input := rest } := by
  by_cases h3 : digits.length ≤ 3
  · have h := runSteps_fieldDigits segDigit_fieldUpdate digits rest s hh hst hi hd (by simpa [hcnt] using h3)
    exact ⟨_, _, h.trans (by rw [foldDigits_segDigit]; rfl)⟩
  · obtain rfl | ⟨ds, d, rfl⟩ := digits.eq_nil_or_concat'
    · exact absurd (Nat.zero_le 3) h3
    · rw [List.length_append, List.length_singleton] at hlen h3 ⊢
      rw [List.append_assoc] at hi
      have hd4 : TakenAsDigit s.params d := hd d (by simp)
      have h := runSteps_fullField segDigit_fieldUpdate ds d rest hh hst hi (fun c hc => hd c (by simp [hc]))
        (by simp [hcnt]; omega)
        (.segFieldLast (by rwa [foldDigits_segDigit]) (by rw [foldDigits_segDigit]; exact hst) rfl)
      exact ⟨_, _, h.trans (by rw [foldDigits_segDigit, segAfter_concat]; rfl)⟩

/-- `:`, CR and LF abandon the record for the state they name. -/
theorem ByteEffect.recordOverride {o : Byte} {s : State}
    (h : classify o = .colon ∨ classify o = .cr ∨ classify o = .lf) :
    ByteEffect o s (abandonRecord (if classify o = .colon then .byteCount else .idle) s) := by
  rcases h with h | h
  · rw [if_pos h]; exact .colon h
  · rw [if_neg (by rcases h with h | h <;> simp [h])]; exact .lineEnd h

/-- Settles O40: the override writes `ST`, `CNT` and `ACC`, so `SEG` stays as the digits left it. -/
theorem partialSegmentStays : Obligations.PartialSegmentStays := by
  intro s digits o rest hh hst hcnt hi hpos hlen hd ho
  obtain ⟨st, cnt, hrun⟩ := runSteps_segDigits digits (o :: rest) s hh hst hcnt hi hlen hd
  refine ⟨_, (runSteps_add digits.length 1 s _ hrun).trans
    (runSteps_succ 0 _ _ (step_of_effect hh rfl (.recordOverride ho))), ?_, rfl, rfl, rfl, rfl, rfl, rfl⟩
  exact segAfter_eq digits s.seg (List.ne_nil_of_length_pos hpos)

/-! ### The data field -/

theorem dataDigit_fieldUpdate : FieldUpdate .data 7 fun n s => setAcc (appendAcc s.acc n) s :=
  ⟨fun _ _ => rfl, fun _ _ => rfl, fun _ _ => rfl, fun _ _ _ _ => rfl, .dataDigit⟩

/-- `ACC` after some data digits. -/
def accAfter (digits : List Byte) (acc : Word) : Word := digits.foldl (fun v c => appendAcc v (fold c)) acc

theorem foldDigits_dataDigit (digits : List Byte) (s : State) :
    foldDigits (fun n s => setAcc (appendAcc s.acc n) s) digits s = setAcc (accAfter digits s.acc) s := by
  induction digits generalizing s with
  | nil => rfl
  | cons c ds ih => exact ih (setAcc (appendAcc s.acc (fold c)) s)

/-- Seven digits and one more finish a word. -/
theorem runSteps_data_word (digits : List Byte) (c : Byte) (rest : List Byte) (s : State) (hh : s.halt = false)
    (hst : s.st = .data) (hcnt : s.cnt = 0) (hi : s.input = digits ++ c :: rest) (hlen : digits.length = 7)
    (hd : ∀ c ∈ digits, TakenAsDigit s.params c) (hc : TakenAsDigit s.params c) : runSteps 8 s =
      .next (finishWord (bswap32 (accAfter (digits ++ [c]) s.acc)) { s with input := rest }) := by
  have hacc : accAfter (digits ++ [c]) s.acc = appendAcc (accAfter digits s.acc) (fold c) := by simp [accAfter]
  have h := runSteps_fullField dataDigit_fieldUpdate digits c rest hh hst hi hd (by simp [hcnt, hlen])
    (.dataWord (by rwa [foldDigits_dataDigit]) (by rwa [foldDigits_dataDigit]) rfl)
  rw [hlen] at h
  rw [h, foldDigits_dataDigit, hacc]
  rfl

/-- Appending a nibble to a number is appending it to the number's bits. -/
theorem appendAcc_setWidth {w : Nat} (x : BitVec w) (n : Nibble) :
    appendAcc (x.setWidth 32) n = (x ++ n).setWidth 32 := by
  apply BitVec.eq_of_getLsbD_eq
  intro i hi
  simp only [appendAcc, BitVec.getLsbD_or, BitVec.getLsbD_shiftLeft, BitVec.getLsbD_setWidth, BitVec.getLsbD_append]
  grind

theorem appendAcc_zero (n : Nibble) : appendAcc 0 n = n.setWidth 32 := by simp [appendAcc]

/-- Two nibbles are one byte. -/
theorem append_two_nibbles {w : Nat} (x : BitVec w) (a b : Nibble) : x ++ a ++ b = x ++ (a ++ b : Byte) := by
  apply BitVec.eq_of_getLsbD_eq
  intro i hi
  rw [BitVec.getLsbD_append, BitVec.getLsbD_append, BitVec.getLsbD_append, BitVec.getLsbD_append]
  grind

/-- Eight nibbles appended to an empty accumulator are four bytes, the first one highest. -/
theorem appendAcc_eight (n1 n2 n3 n4 n5 n6 n7 n8 : Nibble) :
    appendAcc (appendAcc (appendAcc (appendAcc (appendAcc (appendAcc (appendAcc (appendAcc 0 n1) n2) n3) n4) n5) n6)
      n7) n8 = (n1 ++ n2 : Byte) ++ (n3 ++ n4 : Byte) ++ (n5 ++ n6 : Byte) ++ (n7 ++ n8 : Byte) := by
  rw [appendAcc_zero, appendAcc_setWidth, appendAcc_setWidth,
    appendAcc_setWidth, appendAcc_setWidth, appendAcc_setWidth,
    appendAcc_setWidth, appendAcc_setWidth, append_two_nibbles, append_two_nibbles,
    append_two_nibbles]
  exact BitVec.setWidth_eq _

/-- Converting four joined bytes joins them in the other order. -/
theorem bswap32_join (b3 b2 b1 b0 : Byte) : bswap32 (b3 ++ b2 ++ b1 ++ b0) = b0 ++ b1 ++ b2 ++ b3 := by
  obtain ⟨h0, h1, h2, h3⟩ := byteLane_join b3 b2 b1 b0
  rw [bswap32, h0, h1, h2, h3]

/-- Settles O41: seven digits fill `ACC`, the eighth finishes the word; the converter puts the first byte lowest. -/
theorem eightDigitsLoadOneWord : Obligations.EightDigitsLoadOneWord := by
  intro s c1 c2 c3 c4 c5 c6 c7 c8 rest hh hst hcnt hacc hi hd hnf
  have hrun := runSteps_data_word [c1, c2, c3, c4, c5, c6, c7] c8 rest s hh hst hcnt hi rfl
    (fun c hc => hd c (List.mem_append_left [c8] hc)) (hd c8 (by simp))
  have hv : bswap32 (accAfter ([c1, c2, c3, c4, c5, c6, c7] ++ [c8]) s.acc) = (fold c7 ++ fold c8 : Byte) ++
      (fold c5 ++ fold c6 : Byte) ++ (fold c3 ++ fold c4 : Byte) ++ (fold c1 ++ fold c2 : Byte) := by
    rw [hacc, ← bswap32_join, ← appendAcc_eight]
    rfl
  rw [hv] at hrun
  obtain ⟨h0, h1, h2, h3⟩ := byteLane_join (fold c7 ++ fold c8) (fold c5 ++ fold c6) (fold c3 ++ fold c4)
    (fold c1 ++ fold c2)
  refine ⟨_, _, hrun, ?_, rfl, rfl, rfl, hst, rfl, rfl, rfl, ?_⟩
  · rw [← append_two_nibbles, ← append_two_nibbles, ← append_two_nibbles]
  · rw [finishWord_mem_honoured _ { s with input := rest } hnf]
    refine ⟨?_, ?_, ?_, ?_, fun a ha => read_storeWord_other _ _ _ a ha⟩
    · exact (read_storeWord_lane _ _ _ 0 (by decide)).trans (congrArg some h0)
    · exact (read_storeWord_lane _ _ _ 1 (by decide)).trans (congrArg some h1)
    · exact (read_storeWord_lane _ _ _ 2 (by decide)).trans (congrArg some h2)
    · exact (read_storeWord_lane _ _ _ 3 (by decide)).trans (congrArg some h3)

end Sys2Proof.Machine
end

section
/-! ## A data record and a whole stream (R144, R175) -/

namespace Sys2Proof.Machine

/-! ### One word per eight digits -/

/-- `t` is where `n` data digits lead from `s`: the digits counted from the start of the current word, one write and
four addresses per eighth of them. -/
structure AfterDigits (n : Nat) (rest : List Byte) (s t : State) : Prop where
  input : t.input = rest
  st : t.st = .data
  halt : t.halt = false
  cnt : t.cnt.toNat = (s.cnt.toNat + n) % 8
  writes : (writesOf t.out).length = (writesOf s.out).length + (s.cnt.toNat + n) / 8
  addr : t.addr = s.addr + BitVec.ofNat 32 (4 * ((s.cnt.toNat + n) / 8))

/-- A data digit that is counted, then `n` more. -/
theorem AfterDigits.counted {n : Nat} {rest : List Byte} {s u t : State} (h : AfterDigits n rest u t)
    (hc : s.cnt ≠ 7) (hcnt : u.cnt = s.cnt + 1) (hout : u.out = s.out) (haddr : u.addr = s.addr) :
    AfterDigits (n + 1) rest s t := by
  have hu : u.cnt.toNat + n = s.cnt.toNat + (n + 1) := by
    rw [hcnt, toNat_count_succ (toNat_count_lt_seven hc)]
    omega
  obtain ⟨h1, h2, h3, h4, h5, h6⟩ := h
  rw [hu] at h4 h5 h6
  exact ⟨h1, h2, h3, h4, hout ▸ h5, haddr ▸ h6⟩

/-- A word's eighth digit, then `n` more. -/
theorem AfterDigits.finished {n : Nat} {rest : List Byte} {s u t : State} {v : Word} (h : AfterDigits n rest u t)
    (hc : s.cnt = 7) (hcnt : u.cnt = 0) (hout : u.out = s.out ++ [.writeWord s.addr v]) (haddr : u.addr = s.addr + 4) :
    AfterDigits (n + 1) rest s t := by
  obtain ⟨h1, h2, h3, h4, h5, h6⟩ := h
  rw [hcnt] at h4 h5 h6
  have hs : (s.cnt.toNat + (n + 1)) / 8 = n / 8 + 1 := by rw [hc]; simp; omega
  refine ⟨h1, h2, h3, ?_, ?_, ?_⟩
  · rw [h4, hc]; simp; omega
  · rw [h5, hs, hout]; simp [writesOf]; omega
  · rw [h6, hs, haddr, Nat.mul_add, Nat.add_comm (4 * (n / 8)), BitVec.ofNat_add, BitVec.add_assoc]; simp

theorem runSteps_dataDigits (digits rest : List Byte) (s : State) (hh : s.halt = false) (hst : s.st = .data)
    (hi : s.input = digits ++ rest) (hd : ∀ c ∈ digits, TakenAsDigit s.params c) :
    ∃ t, runSteps digits.length s = .next t ∧ AfterDigits digits.length rest s t := by
  induction digits generalizing s with
  | nil =>
    have hlt : s.cnt.toNat < 8 := s.cnt.isLt
    exact ⟨s, rfl, hi, hst, hh, (Nat.mod_eq_of_lt hlt).symm, by simp [hlt], by simp [Nat.div_eq_of_lt hlt]⟩
  | cons c ds ih =>
    have hc := hd c List.mem_cons_self
    have hds : ∀ d ∈ ds, TakenAsDigit s.params d := fun d hmem => hd d (List.mem_cons_of_mem c hmem)
    by_cases h7 : s.cnt = 7
    · obtain ⟨t, ht, ha⟩ :=
        ih (finishWord (bswap32 (appendAcc s.acc (fold c))) { s with input := ds ++ rest }) hh hst rfl hds
      exact ⟨t, (runSteps_succ _ _ _ (step_of_effect hh hi (.dataWord hc hst h7))).trans ht,
        ha.finished h7 rfl rfl rfl⟩
    · obtain ⟨t, ht, ha⟩ :=
        ih (countDigit (setAcc (appendAcc s.acc (fold c)) { s with input := ds ++ rest })) hh hst rfl hds
      exact ⟨t, (runSteps_succ _ _ _ (step_of_effect hh hi (.dataDigit hc hst h7))).trans ht,
        ha.counted h7 rfl rfl rfl⟩

/-- Settles O42: `CNT` counts the digits modulo 8, and each time it wraps one word has been written. -/
theorem dataDigitsWriteOneWordPerEight : Obligations.DataDigitsWriteOneWordPerEight := by
  intro digits rest s hh hst hcnt hi hd
  obtain ⟨t, ht, hin, htst, hth, htc, hw, ha⟩ := runSteps_dataDigits digits rest s hh hst hi hd
  have h0 : s.cnt.toNat + digits.length = digits.length := by simp [hcnt]
  rw [h0] at htc hw ha
  exact ⟨t, ht, hin, htst, hth, htc, hw, ha, fun N hN => by rw [hw, hN]⟩

/-! ### The end of a stream -/

/-- Bytes with no `g` or `G` among them are all taken, and the block is not halted after them. -/
theorem runSteps_no_go (bytes rest : List Byte) (s : State) (hh : s.halt = false) (hi : s.input = bytes ++ rest)
    (hno : ∀ c ∈ bytes, classify c ≠ .go) :
    ∃ t, runSteps bytes.length s = .next t ∧ t.halt = false ∧ t.input = rest ∧ t.params = s.params := by
  induction bytes generalizing s with
  | nil => exact ⟨s, rfl, hh, hi, rfl⟩
  | cons c cs ih =>
    obtain ⟨u, hu, he⟩ := step_effect s c (cs ++ rest) hh hi
    have hhalt : u.halt = false := by
      rcases he.emits with ⟨hhalt, -⟩ | ⟨hgo, -⟩
      · exact hhalt.trans hh
      · exact absurd hgo (hno c List.mem_cons_self)
    obtain ⟨t, ht, hth, htin, htp⟩ := ih u hhalt he.input_eq fun d hd => hno d (List.mem_cons_of_mem c hd)
    exact ⟨t, (runSteps_succ _ _ _ hu).trans ht, hth, htin, htp.trans he.params_eq⟩

/-- Settles O43: the bytes before `g` do not halt the block, `g` does, and a halted block stays. -/
theorem goEndsTheRun : Obligations.GoEndsTheRun := by
  intro s bytes g rest hh hi hno hg
  obtain ⟨t, ht, hth, htin, htp⟩ := runSteps_no_go bytes (g :: rest) s hh hi hno
  refine ⟨t, controlTransfer { t with input := rest }, ht, hth, htin, fun k => ?_, ?_⟩
  · rw [Nat.add_assoc, runSteps_add bytes.length (1 + k) s t ht, Nat.add_comm 1 k,
      runSteps_succ k t _ (step_of_effect hth htin (.go hg))]
    exact runSteps_halted k _ rfl
  · rw [controlTransfer_eq, ← htp]

end Sys2Proof.Machine
end

section
/-! ## The field registers in `IDLE` cannot be observed (R35)

Two blocks that differ in the five field registers alone stay so, as long as the registers agree where the parser still
reads them: from the `:` on `CNT` and `ACC` agree, each address digit makes four more low bits of `ADDR` agree, and two
type digits make `RT` agree before the dispatch reads it. -/

namespace Sys2Proof.Machine

/-- Values for the five registers that hold a record's fields. -/
structure FieldValues where
  cnt : Count
  bc : Byte
  addr : Word
  rt : Byte
  acc : Word

/-- The state with other values in the five registers. -/
def withFields (f : FieldValues) (s : State) : State :=
  { s with cnt := f.cnt, bc := f.bc, addr := f.addr, rt := f.rt, acc := f.acc }

/-- The low `k` bits of two values are the same. -/
def AgreeBelow {w : Nat} (k : Nat) (x y : BitVec w) : Prop := ∀ i < k, x.getLsbD i = y.getLsbD i

/-- The values agree with the state's registers where the parser can still read them. -/
structure FieldsAgree (f : FieldValues) (s : State) : Prop where
  cnt : s.st ≠ .idle → f.cnt = s.cnt
  acc : s.st ≠ .idle → f.acc = s.acc
  address : s.st = .address → AgreeBelow (4 * s.cnt.toNat) f.addr s.addr
  addr : s.st = .recType1 ∨ s.st = .recType2 ∨ s.st = .data → f.addr = s.addr
  rt : s.st = .recType2 → AgreeBelow 4 f.rt s.rt

theorem FieldsAgree.of_idle {f : FieldValues} {s : State} (h : s.st = .idle) : FieldsAgree f s :=
  ⟨fun hne => absurd h hne, fun hne => absurd h hne, by simp [h], by simp [h], by simp [h]⟩

/-! ### Appending makes four more bits agree -/

theorem appendAddr_agree {a b : Word} {k : Nat} (seg : Word) (n : Nibble) (h : AgreeBelow k a b) :
    AgreeBelow (k + 4) (appendAddr a seg n) (appendAddr b seg n) := by
  intro i hi
  simp only [appendAddr_eq, BitVec.getLsbD_or, getLsbD_appendSeg]
  by_cases h4 : i < 4
  · simp [h4]
  · rw [h (i - 4) (by omega)]

/-- An address digit keeps 12 bits of the field alone. -/
theorem appendAddr_eq_of_agree {a b : Word} (seg : Word) (n : Nibble) (h : AgreeBelow 12 a b) :
    appendAddr a seg n = appendAddr b seg n := by
  apply BitVec.eq_of_getLsbD_eq
  intro i _
  by_cases h16 : i < 16
  · exact appendAddr_agree seg n h i h16
  · simp [appendAddr_eq, getLsbD_appendSeg, h16, show ¬ i < 4 by omega]

theorem getLsbD_appendByte (v : Byte) (n : Nibble) (i : Nat) : (appendByte v n).getLsbD i =
    if i < 4 then n.getLsbD i else decide (i < 8) && v.getLsbD (i - 4) := by
  have mask (x : Byte) : x &&& 0xFF = x := BitVec.and_allOnes
  simp only [appendByte, mask, BitVec.getLsbD_or, BitVec.getLsbD_shiftLeft, BitVec.getLsbD_setWidth]
  grind

theorem appendByte_agree (a b : Byte) (n : Nibble) : AgreeBelow 4 (appendByte a n) (appendByte b n) := by
  intro i hi
  simp [getLsbD_appendByte, hi]

theorem appendByte_eq_of_agree {a b : Byte} (n : Nibble) (h : AgreeBelow 4 a b) : appendByte a n = appendByte b n := by
  apply BitVec.eq_of_getLsbD_eq
  intro i hi
  rw [getLsbD_appendByte, getLsbD_appendByte]
  by_cases h4 : i < 4
  · simp [h4]
  · rw [h (i - 4) (by omega)]

/-! ### One byte, one step, a run -/

theorem ByteEffect.withFields {c : Byte} {s t : State} {f : FieldValues} (he : ByteEffect c s t)
    (hf : FieldsAgree f s) :
    ∃ f', ByteEffect c (withFields f s) (withFields f' t) ∧ FieldsAgree f' t := by
  obtain ⟨cnt, bc, addr, rt, acc⟩ := f
  obtain ⟨hcnt, hacc, haddress, haddr, hrt⟩ := hf
  have busy {st : ParserState} (hst : s.st = st) (hne : st ≠ .idle) : cnt = s.cnt ∧ acc = s.acc :=
    ⟨hcnt (hst ▸ hne), hacc (hst ▸ hne)⟩
  cases he with
  | colon h => exact ⟨⟨0, bc, addr, rt, 0⟩, .colon h, by constructor <;> simp⟩
  | lineEnd h => exact ⟨⟨0, bc, addr, rt, 0⟩, .lineEnd h, .of_idle rfl⟩
  | go h => exact ⟨⟨cnt, bc, addr, rt, acc⟩, .go h, ⟨hcnt, hacc, haddress, haddr, hrt⟩⟩
  | ignored h hi => exact ⟨⟨cnt, bc, addr, rt, acc⟩, .ignored h hi, ⟨hcnt, hacc, haddress, haddr, hrt⟩⟩
  | idle h hst => exact ⟨⟨cnt, bc, addr, rt, acc⟩, .idle h hst, ⟨hcnt, hacc, haddress, haddr, hrt⟩⟩
  | byteCountLast h hst hc =>
    obtain ⟨rfl, rfl⟩ := busy hst (by decide)
    exact ⟨⟨0, appendByte bc (fold c), addr, rt, s.acc⟩, .byteCountLast h hst hc,
      by constructor <;> simp [AgreeBelow]⟩
  | byteCountMore h hst hc =>
    obtain ⟨rfl, rfl⟩ := busy hst (by decide)
    exact ⟨⟨s.cnt + 1, appendByte bc (fold c), addr, rt, s.acc⟩, .byteCountMore h hst hc,
      by constructor <;> simp [hst]⟩
  | addressLast h hst hc =>
    obtain ⟨rfl, rfl⟩ := busy hst (by decide)
    have hsame : appendAddr addr s.seg (fold c) = appendAddr s.addr s.seg (fold c) :=
      appendAddr_eq_of_agree s.seg (fold c) (by simpa [hc] using haddress hst)
    exact ⟨⟨0, bc, appendAddr addr s.seg (fold c), rt, s.acc⟩, .addressLast h hst hc,
      by constructor <;> simp [hsame]⟩
  | addressMore h hst hc =>
    obtain ⟨rfl, rfl⟩ := busy hst (by decide)
    have hle : (s.cnt + 1).toNat ≤ s.cnt.toNat + 1 := by rw [BitVec.toNat_add]; exact Nat.mod_le _ _
    have hagree : AgreeBelow (4 * (s.cnt + 1).toNat) (appendAddr addr s.seg (fold c))
        (appendAddr s.addr s.seg (fold c)) := fun i hi =>
      appendAddr_agree s.seg (fold c) (haddress hst) i (by omega)
    exact ⟨⟨s.cnt + 1, bc, appendAddr addr s.seg (fold c), rt, s.acc⟩, .addressMore h hst hc,
      ⟨fun _ => rfl, fun _ => rfl, fun _ => hagree, by simp [hst], by simp [hst]⟩⟩
  | recType1 h hst =>
    obtain ⟨rfl, rfl⟩ := busy hst (by decide)
    obtain rfl : addr = s.addr := haddr (.inl hst)
    exact ⟨⟨0, bc, s.addr, appendByte rt (fold c), s.acc⟩, .recType1 h hst,
      by constructor <;> simp [appendByte_agree]⟩
  | typeData h hst hr =>
    obtain ⟨rfl, rfl⟩ := busy hst (by decide)
    obtain rfl : addr = s.addr := haddr (.inr (.inl hst))
    rw [← appendByte_eq_of_agree (fold c) (hrt hst)] at hr
    exact ⟨⟨0, bc, s.addr, appendByte rt (fold c), s.acc⟩, .typeData h hst hr, by constructor <;> simp⟩
  | typeSegment h hst hr =>
    obtain ⟨rfl, rfl⟩ := busy hst (by decide)
    rw [← appendByte_eq_of_agree (fold c) (hrt hst)] at hr
    exact ⟨⟨0, bc, addr, appendByte rt (fold c), s.acc⟩, .typeSegment h hst hr, by constructor <;> simp⟩
  | typeEof h hst hr =>
    rw [← appendByte_eq_of_agree (fold c) (hrt hst)] at hr
    exact ⟨⟨0, bc, addr, appendByte rt (fold c), acc⟩, .typeEof h hst hr, .of_idle rfl⟩
  | typeOther h hst hr =>
    rw [← appendByte_eq_of_agree (fold c) (hrt hst)] at hr
    exact ⟨⟨0, bc, addr, appendByte rt (fold c), acc⟩, .typeOther h hst hr, .of_idle rfl⟩
  | segFieldLast h hst hc =>
    obtain ⟨rfl, rfl⟩ := busy hst (by decide)
    exact ⟨⟨0, bc, addr, rt, s.acc⟩, .segFieldLast h hst hc, by constructor <;> simp⟩
  | segFieldMore h hst hc =>
    obtain ⟨rfl, rfl⟩ := busy hst (by decide)
    exact ⟨⟨s.cnt + 1, bc, addr, rt, s.acc⟩, .segFieldMore h hst hc, by constructor <;> simp [hst]⟩
  | segFinal h hst => exact ⟨⟨0, bc, addr, rt, acc⟩, .segFinal h hst, .of_idle rfl⟩
  | dataDigit h hst hc =>
    obtain ⟨rfl, rfl⟩ := busy hst (by decide)
    obtain rfl : addr = s.addr := haddr (.inr (.inr hst))
    exact ⟨⟨s.cnt + 1, bc, s.addr, rt, appendAcc s.acc (fold c)⟩, .dataDigit h hst hc,
      by constructor <;> simp [hst]⟩
  | dataWord h hst hc =>
    obtain ⟨rfl, rfl⟩ := busy hst (by decide)
    obtain rfl : addr = s.addr := haddr (.inr (.inr hst))
    exact ⟨⟨0, bc, s.addr + 4, rt, 0⟩, .dataWord h hst hc, by constructor <;> simp [hst]⟩

/-- A step does not take other field values apart, and leaves them where they agree again. -/
theorem step_withFields {s t : State} {f : FieldValues} (h : step s = .next t) (hf : FieldsAgree f s) :
    ∃ f', step (withFields f s) = .next (withFields f' t) ∧ FieldsAgree f' t := by
  cases hh : s.halt with
  | true =>
    cases (step_halted s hh).symm.trans h
    exact ⟨f, step_halted (withFields f s) hh, hf⟩
  | false =>
    cases hi : s.input with
    | nil =>
      rw [step_no_byte s hh hi, awaitByte] at h
      split at h
      · cases h
      · next hsrc =>
        cases h
        exact ⟨f, (step_no_byte (withFields f s) hh hi).trans (if_neg hsrc), hf⟩
    | cons c rest =>
      obtain ⟨u, hu, he⟩ := step_effect s c rest hh hi
      cases hu.symm.trans h
      obtain ⟨f', he', hf'⟩ := he.withFields (f := f) ⟨hf.cnt, hf.acc, hf.address, hf.addr, hf.rt⟩
      exact ⟨f', step_of_effect (s := withFields f s) hh hi he', hf'⟩

theorem runSteps_withFields (k : Nat) {s t : State} {f : FieldValues} (h : runSteps k s = .next t)
    (hf : FieldsAgree f s) : ∃ f', runSteps k (withFields f s) = .next (withFields f' t) := by
  induction k generalizing s f with
  | zero =>
    cases h
    exact ⟨f, rfl⟩
  | succ k ih =>
    obtain ⟨u, hu, hr⟩ := runSteps_succ_next k s t h
    obtain ⟨f', hstep, hf'⟩ := step_withFields hu hf
    rw [runSteps_succ k _ _ hstep]
    exact ih hr hf'

/-- Settles O54: in `IDLE` any values agree, and what is compared at the end is no field register. -/
theorem fieldValuesInIdleAreUnobservable : Obligations.FieldValuesInIdleAreUnobservable := by
  intro k s t cnt bc rt addr acc hst h
  obtain ⟨f', hrun⟩ := runSteps_withFields k (f := ⟨cnt, bc, addr, rt, acc⟩) h (.of_idle hst)
  exact ⟨_, hrun, rfl, rfl, rfl, rfl, rfl, rfl, rfl⟩

end Sys2Proof.Machine
end
